-- ==== Sys2Proof/Word.lean ====
section
/-! DEFINITION. The words of the machine: widths only (00_scope.md R7). -/

namespace Sys2Proof

/-- A data word: 16 bits (R7). -/
abbrev Word := BitVec 16

/-- One byte of the host's bus and of a memory's representation. -/
abbrev Byte := BitVec 8

/-- An instruction word D23 to D0 (R100). -/
abbrev InstrWord := BitVec 24

/-- An instruction ROM word address, the width of PC and NA (R7). -/
abbrev CodeAddr := BitVec 11

/-- A data ROM word address, the width of RP (R7). -/
abbrev RomAddr := BitVec 10

/-- A RAM word address, the width of DP (R7). -/
abbrev RamAddr := BitVec 8

end Sys2Proof
end

