-- ==== Sys2Proof/Config.lean ====
section
/-! DEFINITION. The parameters of R8 and the free values. The open parameters and the free values
(93_implementation_defined.md U1, U2, U3, U14) have no body, so no proof can rest on a value of theirs. The four
parameters R8 gives a default (U17) are the fields of `Encoding` and `SrLayout`; the defaults are
`Config.encoding` (Decode.lean) and `Config.srLayout` (Machine/Ops.lean). -/

namespace Sys2Proof

/-- INT_EDGE_WHILE_DISABLED (R308, D12). -/
inductive EdgePolicy where
  | dropped | latched
  deriving DecidableEq, Repr, Inhabited

/-- SI8_PLACEMENT and SO8_SELECT (R343, R352, D20). -/
inductive Half where
  | high | low
  deriving DecidableEq, Repr, Inhabited

/-- TYPE_CODES, JP_NA_POS and LD_ID_POS (R8, D1, D2, U17). -/
structure Encoding where
  /-- D23 D22 of OP (R101). -/
  typeOp  : BitVec 2
  /-- D23 D22 of RT (R101). -/
  typeRt  : BitVec 2
  /-- D23 D22 of JP (R101). -/
  typeJp  : BitVec 2
  /-- D23 D22 of LD (R101). -/
  typeLd  : BitVec 2
  /-- The lowest bit of the 11-bit NA, in D12 to D0 of JP (R104). -/
  jpNaPos : Nat
  /-- The lowest bit of the 16-bit ID, in D21 to D4 of LD (R105). -/
  ldIdPos : Nat
  deriving DecidableEq, Repr

/-- The values the open parameters table of 92_eei_decisions.md admits: one code for each type, NA within D12 to D0, ID
within D21 to D4. -/
abbrev Encoding.legal (e : Encoding) : Prop :=
  [e.typeOp, e.typeRt, e.typeJp, e.typeLd].Nodup ∧ e.jpNaPos ≤ 2 ∧ 4 ≤ e.ldIdPos ∧ e.ldIdPos ≤ 6

/-- SR_LAYOUT: the bit number of each of the eleven bits of SR (R8, R42, D4, U17). -/
structure SrLayout where
  rqm : Nat
  uf1 : Nat
  uf0 : Nat
  drs : Nat
  dma : Nat
  drc : Nat
  soc : Nat
  sic : Nat
  ei  : Nat
  p1  : Nat
  p0  : Nat
  deriving DecidableEq, Repr

namespace Config

/-- What becomes of a rising edge of INT while EI = 0 (R308, D12 OPEN; log 12). -/
opaque intEdgeWhileDisabled : EdgePolicy

/-- The half of SI that receives 8-bit serial data (R343, D20 OPEN; log 12). -/
opaque si8Placement : Half

/-- The half of SO that is sent as 8-bit serial data (R352, D20 OPEN; log 12). -/
opaque so8Select : Half

/-- `undef_1` of R11: the n-th free value, read as one bit (U1; log 8). -/
opaque freeBit : Nat → Bool

/-- `undef_8` of R11: the n-th free value, read as a byte (U2; log 9). -/
opaque freeByte : Nat → Byte

/-- `undef_16` of R11: the n-th free value, read as a word (U3, U14; logs 10, 11). -/
opaque freeWord : Nat → Word

end Config

end Sys2Proof
end

