-- ==== Sys2Proof/Syntax/Fields.lean ====
section
/-! DEFINITION. The values of the instruction fields (30_encoding.md R107 to R115), one constructor per value,
and the four instruction types over them (R102 to R105). -/

namespace Sys2Proof

/-- P-SELECT, D21 D20 (R107): the P input of a binary operation. -/
inductive PSel where
  | ram | idb | m | n
  deriving DecidableEq, Repr

/-- The ALU field, D19 to D16 (R108). -/
inductive AluOp where
  | nop | or | and | xor | sub | add | sbb | adc | dec | inc | cmp | shr1 | shl1 | shl2 | shl4 | xchg
  deriving DecidableEq, Repr

/-- ASL, D15 (R109): the accumulator with its flag register. -/
inductive Acc where
  | a | b
  deriving DecidableEq, Repr

/-- DPL, D14 D13 (R110). -/
inductive DplOp where
  | nop | inc | dec | clr
  deriving DecidableEq, Repr

/-- RPDCR, D8 (R112). -/
inductive RpOp where
  | nop | dec
  deriving DecidableEq, Repr

/-- SRC, D7 to D4 (R113). `non` is both NON and TRB. -/
inductive Src where
  | non | a | b | tr | dp | rp | ro | sgn | dr | drnf | sr | sim | sil | k | l | mem
  deriving DecidableEq, Repr

/-- DST, D3 to D0 (R114). -/
inductive Dst where
  | non | a | b | tr | dp | rp | dr | sr | sol | som | k | klr | klm | l | trb | mem
  deriving DecidableEq, Repr

/-- BRCH, D21 to D13 (R115): the 36 values the source defines. -/
inductive Brch where
  | jmp | call
  | jnca | jca | jncb | jcb | jnza | jza | jnzb | jzb
  | jnova0 | jova0 | jnovb0 | jovb0 | jnova1 | jova1 | jnovb1 | jovb1
  | jnsa0 | jsa0 | jnsb0 | jsb0 | jnsa1 | jsa1 | jnsb1 | jsb1
  | jdpl0 | jdpln0 | jdplf | jdplnf
  | jnsiak | jsiak | jnsoak | jsoak | jnrqm | jrqm
  deriving DecidableEq, Repr

/-- The fields of OP and RT beside the ALU field (R102, R103). A field not given has its zero value (R123). -/
structure OpFields where
  psel  : PSel := .ram
  asl   : Acc := .a
  dpl   : DplOp := .nop
  dphm  : BitVec 4 := 0
  rpdcr : RpOp := .nop
  src   : Src := .non
  dst   : Dst := .non
  deriving DecidableEq, Repr

/-- Every field at its zero value. -/
def OpFields.zero : OpFields := {}

/-- An instruction as R121 reads it off a word: one of the four types with its fields. -/
inductive Form where
  | op (alu : AluOp) (f : OpFields)
  | rt (alu : AluOp) (f : OpFields)
  | jp (brch : Brch) (na : CodeAddr)
  | ld (id : Word) (dst : Dst)
  deriving DecidableEq, Repr

/-- An RT instruction, which needs a return address (R230). -/
def Form.isReturn : Form → Bool
  | .op _ _ => false
  | .rt _ _ => true
  | .jp _ _ => false
  | .ld _ _ => false

/-- The (SRC, DST) pairs the source forbids in OP and RT (R118, R226). -/
def forbidden (src : Src) (dst : Dst) : Bool :=
  match src, dst with
  | .k, .klr | .l, .klr | .k, .klm | .l, .klm | .mem, .mem => true
  | _, _ => false

end Sys2Proof
end

