-- ==== Sys2Proof/Syntax.lean ====
section
/-! DEFINITION. The instructions: one constructor per row of spec/opcode_table.json.

The 69 instruction rows are OP and RT once per ALU operation, the 36 jumps and LD. The 45 field-value rows (R125)
stand for the OP word in which that field alone is written, every field not named being zero (R123), as the
examples of 42_op_dp_rp.md and 43_op_src_dst.md write them. `Instr.form` gives every constructor the R121 form of
its word, and no meaning depends on more than that form (assumption log 18). -/

namespace Sys2Proof

/-- An instruction: a row of the opcode table with its operands. -/
inductive Instr where
  -- OP, one row per ALU operation (R149 to R165)
  | opNop (f : OpFields)
  | opOr (f : OpFields)
  | opAnd (f : OpFields)
  | opXor (f : OpFields)
  | opSub (f : OpFields)
  | opAdd (f : OpFields)
  | opSbb (f : OpFields)
  | opAdc (f : OpFields)
  | opDec (f : OpFields)
  | opInc (f : OpFields)
  | opCmp (f : OpFields)
  | opShr1 (f : OpFields)
  | opShl1 (f : OpFields)
  | opShl2 (f : OpFields)
  | opShl4 (f : OpFields)
  | opXchg (f : OpFields)
  -- RT, the same with a return (R230)
  | rtNop (f : OpFields)
  | rtOr (f : OpFields)
  | rtAnd (f : OpFields)
  | rtXor (f : OpFields)
  | rtSub (f : OpFields)
  | rtAdd (f : OpFields)
  | rtSbb (f : OpFields)
  | rtAdc (f : OpFields)
  | rtDec (f : OpFields)
  | rtInc (f : OpFields)
  | rtCmp (f : OpFields)
  | rtShr1 (f : OpFields)
  | rtShl1 (f : OpFields)
  | rtShl2 (f : OpFields)
  | rtShl4 (f : OpFields)
  | rtXchg (f : OpFields)
  -- JP (R241 to R277)
  | jmp (na : CodeAddr)
  | call (na : CodeAddr)
  | jnca (na : CodeAddr)
  | jca (na : CodeAddr)
  | jncb (na : CodeAddr)
  | jcb (na : CodeAddr)
  | jnza (na : CodeAddr)
  | jza (na : CodeAddr)
  | jnzb (na : CodeAddr)
  | jzb (na : CodeAddr)
  | jnova0 (na : CodeAddr)
  | jova0 (na : CodeAddr)
  | jnovb0 (na : CodeAddr)
  | jovb0 (na : CodeAddr)
  | jnova1 (na : CodeAddr)
  | jova1 (na : CodeAddr)
  | jnovb1 (na : CodeAddr)
  | jovb1 (na : CodeAddr)
  | jnsa0 (na : CodeAddr)
  | jsa0 (na : CodeAddr)
  | jnsb0 (na : CodeAddr)
  | jsb0 (na : CodeAddr)
  | jnsa1 (na : CodeAddr)
  | jsa1 (na : CodeAddr)
  | jnsb1 (na : CodeAddr)
  | jsb1 (na : CodeAddr)
  | jdpl0 (na : CodeAddr)
  | jdpln0 (na : CodeAddr)
  | jdplf (na : CodeAddr)
  | jdplnf (na : CodeAddr)
  | jnsiak (na : CodeAddr)
  | jsiak (na : CodeAddr)
  | jnsoak (na : CodeAddr)
  | jsoak (na : CodeAddr)
  | jnrqm (na : CodeAddr)
  | jrqm (na : CodeAddr)
  -- LD (R290)
  | ld (id : Word) (dst : Dst)
  -- field values, each the OP word that writes this field alone (R125, R123)
  | pselRam
  | pselIdb
  | pselM
  | pselN
  | aslA
  | aslB
  | dplNop
  | dplInc
  | dplDec
  | dplClr
  | dphm (m : BitVec 4)
  | rpNop
  | rpDec
  | srcNon
  | srcA
  | srcB
  | srcTr
  | srcDp
  | srcRp
  | srcRo
  | srcSgn
  | srcDr
  | srcDrnf
  | srcSr
  | srcSim
  | srcSil
  | srcK
  | srcL
  | srcMem
  | dstNon
  | dstA
  | dstB
  | dstTr
  | dstDp
  | dstRp
  | dstDr
  | dstSr
  | dstSol
  | dstSom
  | dstK
  | dstKlr
  | dstKlm
  | dstL
  | dstTrb
  | dstMem
  deriving DecidableEq, Repr

/-- The R121 form of an instruction's word. -/
def Instr.form : Instr → Form
  | .opNop f => .op .nop f
  | .opOr f => .op .or f
  | .opAnd f => .op .and f
  | .opXor f => .op .xor f
  | .opSub f => .op .sub f
  | .opAdd f => .op .add f
  | .opSbb f => .op .sbb f
  | .opAdc f => .op .adc f
  | .opDec f => .op .dec f
  | .opInc f => .op .inc f
  | .opCmp f => .op .cmp f
  | .opShr1 f => .op .shr1 f
  | .opShl1 f => .op .shl1 f
  | .opShl2 f => .op .shl2 f
  | .opShl4 f => .op .shl4 f
  | .opXchg f => .op .xchg f
  | .rtNop f => .rt .nop f
  | .rtOr f => .rt .or f
  | .rtAnd f => .rt .and f
  | .rtXor f => .rt .xor f
  | .rtSub f => .rt .sub f
  | .rtAdd f => .rt .add f
  | .rtSbb f => .rt .sbb f
  | .rtAdc f => .rt .adc f
  | .rtDec f => .rt .dec f
  | .rtInc f => .rt .inc f
  | .rtCmp f => .rt .cmp f
  | .rtShr1 f => .rt .shr1 f
  | .rtShl1 f => .rt .shl1 f
  | .rtShl2 f => .rt .shl2 f
  | .rtShl4 f => .rt .shl4 f
  | .rtXchg f => .rt .xchg f
  | .jmp na => .jp .jmp na
  | .call na => .jp .call na
  | .jnca na => .jp .jnca na
  | .jca na => .jp .jca na
  | .jncb na => .jp .jncb na
  | .jcb na => .jp .jcb na
  | .jnza na => .jp .jnza na
  | .jza na => .jp .jza na
  | .jnzb na => .jp .jnzb na
  | .jzb na => .jp .jzb na
  | .jnova0 na => .jp .jnova0 na
  | .jova0 na => .jp .jova0 na
  | .jnovb0 na => .jp .jnovb0 na
  | .jovb0 na => .jp .jovb0 na
  | .jnova1 na => .jp .jnova1 na
  | .jova1 na => .jp .jova1 na
  | .jnovb1 na => .jp .jnovb1 na
  | .jovb1 na => .jp .jovb1 na
  | .jnsa0 na => .jp .jnsa0 na
  | .jsa0 na => .jp .jsa0 na
  | .jnsb0 na => .jp .jnsb0 na
  | .jsb0 na => .jp .jsb0 na
  | .jnsa1 na => .jp .jnsa1 na
  | .jsa1 na => .jp .jsa1 na
  | .jnsb1 na => .jp .jnsb1 na
  | .jsb1 na => .jp .jsb1 na
  | .jdpl0 na => .jp .jdpl0 na
  | .jdpln0 na => .jp .jdpln0 na
  | .jdplf na => .jp .jdplf na
  | .jdplnf na => .jp .jdplnf na
  | .jnsiak na => .jp .jnsiak na
  | .jsiak na => .jp .jsiak na
  | .jnsoak na => .jp .jnsoak na
  | .jsoak na => .jp .jsoak na
  | .jnrqm na => .jp .jnrqm na
  | .jrqm na => .jp .jrqm na
  | .ld id dst => .ld id dst
  | .pselRam => .op .nop { OpFields.zero with psel := .ram }
  | .pselIdb => .op .nop { OpFields.zero with psel := .idb }
  | .pselM => .op .nop { OpFields.zero with psel := .m }
  | .pselN => .op .nop { OpFields.zero with psel := .n }
  | .aslA => .op .nop { OpFields.zero with asl := .a }
  | .aslB => .op .nop { OpFields.zero with asl := .b }
  | .dplNop => .op .nop { OpFields.zero with dpl := .nop }
  | .dplInc => .op .nop { OpFields.zero with dpl := .inc }
  | .dplDec => .op .nop { OpFields.zero with dpl := .dec }
  | .dplClr => .op .nop { OpFields.zero with dpl := .clr }
  | .dphm m => .op .nop { OpFields.zero with dphm := m }
  | .rpNop => .op .nop { OpFields.zero with rpdcr := .nop }
  | .rpDec => .op .nop { OpFields.zero with rpdcr := .dec }
  | .srcNon => .op .nop { OpFields.zero with src := .non }
  | .srcA => .op .nop { OpFields.zero with src := .a }
  | .srcB => .op .nop { OpFields.zero with src := .b }
  | .srcTr => .op .nop { OpFields.zero with src := .tr }
  | .srcDp => .op .nop { OpFields.zero with src := .dp }
  | .srcRp => .op .nop { OpFields.zero with src := .rp }
  | .srcRo => .op .nop { OpFields.zero with src := .ro }
  | .srcSgn => .op .nop { OpFields.zero with src := .sgn }
  | .srcDr => .op .nop { OpFields.zero with src := .dr }
  | .srcDrnf => .op .nop { OpFields.zero with src := .drnf }
  | .srcSr => .op .nop { OpFields.zero with src := .sr }
  | .srcSim => .op .nop { OpFields.zero with src := .sim }
  | .srcSil => .op .nop { OpFields.zero with src := .sil }
  | .srcK => .op .nop { OpFields.zero with src := .k }
  | .srcL => .op .nop { OpFields.zero with src := .l }
  | .srcMem => .op .nop { OpFields.zero with src := .mem }
  | .dstNon => .op .nop { OpFields.zero with dst := .non }
  | .dstA => .op .nop { OpFields.zero with dst := .a }
  | .dstB => .op .nop { OpFields.zero with dst := .b }
  | .dstTr => .op .nop { OpFields.zero with dst := .tr }
  | .dstDp => .op .nop { OpFields.zero with dst := .dp }
  | .dstRp => .op .nop { OpFields.zero with dst := .rp }
  | .dstDr => .op .nop { OpFields.zero with dst := .dr }
  | .dstSr => .op .nop { OpFields.zero with dst := .sr }
  | .dstSol => .op .nop { OpFields.zero with dst := .sol }
  | .dstSom => .op .nop { OpFields.zero with dst := .som }
  | .dstK => .op .nop { OpFields.zero with dst := .k }
  | .dstKlr => .op .nop { OpFields.zero with dst := .klr }
  | .dstKlm => .op .nop { OpFields.zero with dst := .klm }
  | .dstL => .op .nop { OpFields.zero with dst := .l }
  | .dstTrb => .op .nop { OpFields.zero with dst := .trb }
  | .dstMem => .op .nop { OpFields.zero with dst := .mem }

end Sys2Proof
end

