-- ==== Sys2Proof/WellFormed.lean ====
section
/-! DEFINITION. Well-formed instructions: what a word can stand for. -/

namespace Sys2Proof

/-- How many fields of an OP or RT word have a value other than the zero value. -/
def OpFields.written (f : OpFields) : Nat :=
  (if f.psel = .ram then 0 else 1) + (if f.asl = .a then 0 else 1) + (if f.dpl = .nop then 0 else 1)
    + (if f.dphm = 0 then 0 else 1) + (if f.rpdcr = .nop then 0 else 1) + (if f.src = .non then 0 else 1)
    + (if f.dst = .non then 0 else 1)

/-- R118, R226: OP and RT name no forbidden pair. -/
def Form.allowed : Form → Bool
  | .op _ f => !forbidden f.src f.dst
  | .rt _ f => !forbidden f.src f.dst
  | .jp _ _ => true
  | .ld _ _ => true

/-- An OP NOP word with exactly one field written is named by that field's row, every other by OP_NOP (log 18):
each word has one name. The rows of the seven zero field values name no word of their own. -/
def Instr.canonical (i : Instr) : Bool :=
  match i with
  | .opNop f => f.written != 1
  | i =>
    match i.form with
    | .op .nop f => f.written == 1
    | _ => true

/-- An instruction that some word decodes to. -/
def Instr.wf (i : Instr) : Bool := i.form.allowed && i.canonical

end Sys2Proof
end

