-- ==== Sys2Proof/Decode.lean ====
section
/-! DEFINITION. Decoding and encoding of the 24-bit instruction word (30_encoding.md R100 to R121), for the type codes
and the places of NA and ID that an `Encoding` gives (R8). -/

namespace Sys2Proof

/-- The defaults of TYPE_CODES, JP_NA_POS and LD_ID_POS, which the spec supplies from general knowledge: 00 OP, 01 RT, 10 JP,
11 LD, NA = D12 to D2, ID = D21 to D6 (R8, R101, R104, R105, D1, D2; log 5, PRESUMED). -/
def Config.encoding : Encoding where
  typeOp  := 0b00
  typeRt  := 0b01
  typeJp  := 0b10
  typeLd  := 0b11
  jpNaPos := 2
  ldIdPos := 6

/-- Why a word is refused (R121). -/
inductive DecodeError where
  /-- JP with a BRCH value not in Table 4-11 (R116). -/
  | reservedBranch
  /-- JP with D1 D0 not 00, or LD with D5 D4 not 00 (R117). -/
  | unusedBits
  /-- OP or RT with a forbidden (SRC, DST) pair (R118). -/
  | forbiddenTransfer
  deriving DecidableEq, Repr

/-! ### Codes of the field values -/

/-- The code of a PSel (R107). -/
def PSel.code : PSel → BitVec 2
  | .ram => 0
  | .idb => 1
  | .m => 2
  | .n => 3

/-- The PSel a code names (R107). -/
def PSel.ofCode (c : BitVec 2) : PSel :=
  match c with
  | 0#2 => .ram
  | 1#2 => .idb
  | 2#2 => .m
  | 3#2 => .n

/-- The code of a AluOp (R108). -/
def AluOp.code : AluOp → BitVec 4
  | .nop => 0
  | .or => 1
  | .and => 2
  | .xor => 3
  | .sub => 4
  | .add => 5
  | .sbb => 6
  | .adc => 7
  | .dec => 8
  | .inc => 9
  | .cmp => 10
  | .shr1 => 11
  | .shl1 => 12
  | .shl2 => 13
  | .shl4 => 14
  | .xchg => 15

/-- The AluOp a code names (R108). -/
def AluOp.ofCode (c : BitVec 4) : AluOp :=
  match c with
  | 0#4 => .nop
  | 1#4 => .or
  | 2#4 => .and
  | 3#4 => .xor
  | 4#4 => .sub
  | 5#4 => .add
  | 6#4 => .sbb
  | 7#4 => .adc
  | 8#4 => .dec
  | 9#4 => .inc
  | 10#4 => .cmp
  | 11#4 => .shr1
  | 12#4 => .shl1
  | 13#4 => .shl2
  | 14#4 => .shl4
  | _ => .xchg  -- 15, the last of the sixteen codes

/-- The code of a Acc (R109). -/
def Acc.code : Acc → BitVec 1
  | .a => 0
  | .b => 1

/-- The Acc a code names (R109). -/
def Acc.ofCode (c : BitVec 1) : Acc :=
  match c with
  | 0#1 => .a
  | 1#1 => .b

/-- The code of a DplOp (R110). -/
def DplOp.code : DplOp → BitVec 2
  | .nop => 0
  | .inc => 1
  | .dec => 2
  | .clr => 3

/-- The DplOp a code names (R110). -/
def DplOp.ofCode (c : BitVec 2) : DplOp :=
  match c with
  | 0#2 => .nop
  | 1#2 => .inc
  | 2#2 => .dec
  | 3#2 => .clr

/-- The code of a RpOp (R112). -/
def RpOp.code : RpOp → BitVec 1
  | .nop => 0
  | .dec => 1

/-- The RpOp a code names (R112). -/
def RpOp.ofCode (c : BitVec 1) : RpOp :=
  match c with
  | 0#1 => .nop
  | 1#1 => .dec

/-- The code of a Src (R113). -/
def Src.code : Src → BitVec 4
  | .non => 0
  | .a => 1
  | .b => 2
  | .tr => 3
  | .dp => 4
  | .rp => 5
  | .ro => 6
  | .sgn => 7
  | .dr => 8
  | .drnf => 9
  | .sr => 10
  | .sim => 11
  | .sil => 12
  | .k => 13
  | .l => 14
  | .mem => 15

/-- The Src a code names (R113). -/
def Src.ofCode (c : BitVec 4) : Src :=
  match c with
  | 0#4 => .non
  | 1#4 => .a
  | 2#4 => .b
  | 3#4 => .tr
  | 4#4 => .dp
  | 5#4 => .rp
  | 6#4 => .ro
  | 7#4 => .sgn
  | 8#4 => .dr
  | 9#4 => .drnf
  | 10#4 => .sr
  | 11#4 => .sim
  | 12#4 => .sil
  | 13#4 => .k
  | 14#4 => .l
  | _ => .mem  -- 15, the last of the sixteen codes

/-- The code of a Dst (R114). -/
def Dst.code : Dst → BitVec 4
  | .non => 0
  | .a => 1
  | .b => 2
  | .tr => 3
  | .dp => 4
  | .rp => 5
  | .dr => 6
  | .sr => 7
  | .sol => 8
  | .som => 9
  | .k => 10
  | .klr => 11
  | .klm => 12
  | .l => 13
  | .trb => 14
  | .mem => 15

/-- The Dst a code names (R114). -/
def Dst.ofCode (c : BitVec 4) : Dst :=
  match c with
  | 0#4 => .non
  | 1#4 => .a
  | 2#4 => .b
  | 3#4 => .tr
  | 4#4 => .dp
  | 5#4 => .rp
  | 6#4 => .dr
  | 7#4 => .sr
  | 8#4 => .sol
  | 9#4 => .som
  | 10#4 => .k
  | 11#4 => .klr
  | 12#4 => .klm
  | 13#4 => .l
  | 14#4 => .trb
  | _ => .mem  -- 15, the last of the sixteen codes

/-- The nine BRCH bits of Table 4-11 (R115). -/
def Brch.code : Brch → BitVec 9
  | .jmp => 0x100
  | .call => 0x140
  | .jnca => 0x080
  | .jca => 0x082
  | .jncb => 0x084
  | .jcb => 0x086
  | .jnza => 0x088
  | .jza => 0x08A
  | .jnzb => 0x08C
  | .jzb => 0x08E
  | .jnova0 => 0x090
  | .jova0 => 0x092
  | .jnovb0 => 0x094
  | .jovb0 => 0x096
  | .jnova1 => 0x098
  | .jova1 => 0x09A
  | .jnovb1 => 0x09C
  | .jovb1 => 0x09E
  | .jnsa0 => 0x0A0
  | .jsa0 => 0x0A2
  | .jnsb0 => 0x0A4
  | .jsb0 => 0x0A6
  | .jnsa1 => 0x0A8
  | .jsa1 => 0x0AA
  | .jnsb1 => 0x0AC
  | .jsb1 => 0x0AE
  | .jdpl0 => 0x0B0
  | .jdpln0 => 0x0B1
  | .jdplf => 0x0B2
  | .jdplnf => 0x0B3
  | .jnsiak => 0x0B4
  | .jsiak => 0x0B6
  | .jnsoak => 0x0B8
  | .jsoak => 0x0BA
  | .jnrqm => 0x0BC
  | .jrqm => 0x0BE

/-- The 36 values of Table 4-11 (R115). -/
def Brch.all : List Brch :=
  [.jmp, .call, .jnca, .jca, .jncb, .jcb, .jnza, .jza, .jnzb, .jzb, .jnova0, .jova0, .jnovb0, .jovb0,
   .jnova1, .jova1, .jnovb1, .jovb1, .jnsa0, .jsa0, .jnsb0, .jsb0, .jnsa1, .jsa1, .jnsb1, .jsb1,
   .jdpl0, .jdpln0, .jdplf, .jdplnf, .jnsiak, .jsiak, .jnsoak, .jsoak, .jnrqm, .jrqm]

/-- The BRCH value of nine bits; every value outside Table 4-11 is none (R116). -/
def Brch.ofCode (c : BitVec 9) : Option Brch := Brch.all.find? (fun b => b.code == c)

/-! ### The four formats -/

/-- D23 D22 of a form (R101). -/
def Form.typeCode (e : Encoding) : Form → BitVec 2
  | .op _ _ => e.typeOp
  | .rt _ _ => e.typeRt
  | .jp _ _ => e.typeJp
  | .ld _ _ => e.typeLd

/-- D12 to D0 of a JP word: NA at its place, the two bits left over 0 (R104, R117). -/
def placeNa (e : Encoding) (na : CodeAddr) : BitVec 13 := na.zeroExtend 13 <<< e.jpNaPos

/-- D21 to D4 of an LD word: ID at its place, the two bits left over 0 (R105, R117). -/
def placeId (e : Encoding) (id : Word) : BitVec 18 := id.zeroExtend 18 <<< (e.ldIdPos - 4)

/-- The eight-field layout of OP and RT (R102, R103). -/
def encodeFields (type : BitVec 2) (alu : AluOp) (f : OpFields) : InstrWord :=
  type ++ f.psel.code ++ alu.code ++ f.asl.code ++ f.dpl.code ++ f.dphm ++ f.rpdcr.code ++ f.src.code ++ f.dst.code

/-- The ALU field, D19 to D16 (R102). -/
def aluOf (w : InstrWord) : AluOp := .ofCode (w.extractLsb' 16 4)

/-- The other seven fields of OP and RT (R102). -/
def fieldsOf (w : InstrWord) : OpFields where
  psel  := .ofCode (w.extractLsb' 20 2)
  asl   := .ofCode (w.extractLsb' 15 1)
  dpl   := .ofCode (w.extractLsb' 13 2)
  dphm  := w.extractLsb' 9 4
  rpdcr := .ofCode (w.extractLsb' 8 1)
  src   := .ofCode (w.extractLsb' 4 4)
  dst   := .ofCode (w.extractLsb' 0 4)

/-- The word of a form: `type : psel : alu : ...`, `type : brch : NA field`, `type : ID field : dst` (R102 to R105). -/
def encodeForm (e : Encoding) (F : Form) : InstrWord :=
  match F with
  | .op alu f => encodeFields e.typeOp alu f
  | .rt alu f => encodeFields e.typeRt alu f
  | .jp brch na => e.typeJp ++ brch.code ++ placeNa e na
  | .ld id dst => e.typeLd ++ placeId e id ++ dst.code

/-- The eight fields of an OP or RT word, with no forbidden pair (R118, R121). -/
def decodeFields (w : InstrWord) : Except DecodeError (AluOp × OpFields) :=
  let f := fieldsOf w
  if forbidden f.src f.dst then .error .forbiddenTransfer else .ok (aluOf w, f)

/-- A JP word: the unused bits first, then BRCH (R116, R117, R121). -/
def decodeJp (e : Encoding) (w : InstrWord) : Except DecodeError Form :=
  let na : CodeAddr := w.extractLsb' e.jpNaPos 11
  if w.extractLsb' 0 13 ≠ placeNa e na then .error .unusedBits
  else
    match Brch.ofCode (w.extractLsb' 13 9) with
    | some brch => .ok (.jp brch na)
    | none => .error .reservedBranch

/-- An LD word: the unused bits, then ID and DST (R117, R121). -/
def decodeLd (e : Encoding) (w : InstrWord) : Except DecodeError Form :=
  let id : Word := w.extractLsb' e.ldIdPos 16
  if w.extractLsb' 4 18 ≠ placeId e id then .error .unusedBits
  else .ok (.ld id (.ofCode (w.extractLsb' 0 4)))

/-- The decoding algorithm of R121, total on every word; of the four type codes the last is LD's. -/
def decodeForm (e : Encoding) (w : InstrWord) : Except DecodeError Form :=
  let type := w.extractLsb' 22 2
  if type = e.typeOp then (decodeFields w).map fun p => .op p.1 p.2
  else if type = e.typeRt then (decodeFields w).map fun p => .rt p.1 p.2
  else if type = e.typeJp then decodeJp e w
  else decodeLd e w

/-! ### The row that names a word -/

/-- The field-value row a word of OP NOP is written with, when exactly one of its fields is not zero (log 18). -/
def soleField (f : OpFields) : Option Instr :=
  if f = { OpFields.zero with psel := f.psel } then
    match f.psel with
    | .ram => none
    | .idb => some .pselIdb
    | .m => some .pselM
    | .n => some .pselN
  else if f = { OpFields.zero with asl := f.asl } then
    match f.asl with
    | .a => none
    | .b => some .aslB
  else if f = { OpFields.zero with dpl := f.dpl } then
    match f.dpl with
    | .nop => none
    | .inc => some .dplInc
    | .dec => some .dplDec
    | .clr => some .dplClr
  else if f = { OpFields.zero with dphm := f.dphm } then
    if f.dphm = 0 then none else some (.dphm f.dphm)
  else if f = { OpFields.zero with rpdcr := f.rpdcr } then
    match f.rpdcr with
    | .nop => none
    | .dec => some .rpDec
  else if f = { OpFields.zero with src := f.src } then
    match f.src with
    | .non => none
    | .a => some .srcA
    | .b => some .srcB
    | .tr => some .srcTr
    | .dp => some .srcDp
    | .rp => some .srcRp
    | .ro => some .srcRo
    | .sgn => some .srcSgn
    | .dr => some .srcDr
    | .drnf => some .srcDrnf
    | .sr => some .srcSr
    | .sim => some .srcSim
    | .sil => some .srcSil
    | .k => some .srcK
    | .l => some .srcL
    | .mem => some .srcMem
  else if f = { OpFields.zero with dst := f.dst } then
    match f.dst with
    | .non => none
    | .a => some .dstA
    | .b => some .dstB
    | .tr => some .dstTr
    | .dp => some .dstDp
    | .rp => some .dstRp
    | .dr => some .dstDr
    | .sr => some .dstSr
    | .sol => some .dstSol
    | .som => some .dstSom
    | .k => some .dstK
    | .klr => some .dstKlr
    | .klm => some .dstKlm
    | .l => some .dstL
    | .trb => some .dstTrb
    | .mem => some .dstMem
  else none

/-- The row of the opcode table that names a form. -/
def ofForm : Form → Instr
  | .op .nop f => (soleField f).getD (.opNop f)
  | .op .or f => .opOr f
  | .op .and f => .opAnd f
  | .op .xor f => .opXor f
  | .op .sub f => .opSub f
  | .op .add f => .opAdd f
  | .op .sbb f => .opSbb f
  | .op .adc f => .opAdc f
  | .op .dec f => .opDec f
  | .op .inc f => .opInc f
  | .op .cmp f => .opCmp f
  | .op .shr1 f => .opShr1 f
  | .op .shl1 f => .opShl1 f
  | .op .shl2 f => .opShl2 f
  | .op .shl4 f => .opShl4 f
  | .op .xchg f => .opXchg f
  | .rt .nop f => .rtNop f
  | .rt .or f => .rtOr f
  | .rt .and f => .rtAnd f
  | .rt .xor f => .rtXor f
  | .rt .sub f => .rtSub f
  | .rt .add f => .rtAdd f
  | .rt .sbb f => .rtSbb f
  | .rt .adc f => .rtAdc f
  | .rt .dec f => .rtDec f
  | .rt .inc f => .rtInc f
  | .rt .cmp f => .rtCmp f
  | .rt .shr1 f => .rtShr1 f
  | .rt .shl1 f => .rtShl1 f
  | .rt .shl2 f => .rtShl2 f
  | .rt .shl4 f => .rtShl4 f
  | .rt .xchg f => .rtXchg f
  | .jp .jmp na => .jmp na
  | .jp .call na => .call na
  | .jp .jnca na => .jnca na
  | .jp .jca na => .jca na
  | .jp .jncb na => .jncb na
  | .jp .jcb na => .jcb na
  | .jp .jnza na => .jnza na
  | .jp .jza na => .jza na
  | .jp .jnzb na => .jnzb na
  | .jp .jzb na => .jzb na
  | .jp .jnova0 na => .jnova0 na
  | .jp .jova0 na => .jova0 na
  | .jp .jnovb0 na => .jnovb0 na
  | .jp .jovb0 na => .jovb0 na
  | .jp .jnova1 na => .jnova1 na
  | .jp .jova1 na => .jova1 na
  | .jp .jnovb1 na => .jnovb1 na
  | .jp .jovb1 na => .jovb1 na
  | .jp .jnsa0 na => .jnsa0 na
  | .jp .jsa0 na => .jsa0 na
  | .jp .jnsb0 na => .jnsb0 na
  | .jp .jsb0 na => .jsb0 na
  | .jp .jnsa1 na => .jnsa1 na
  | .jp .jsa1 na => .jsa1 na
  | .jp .jnsb1 na => .jnsb1 na
  | .jp .jsb1 na => .jsb1 na
  | .jp .jdpl0 na => .jdpl0 na
  | .jp .jdpln0 na => .jdpln0 na
  | .jp .jdplf na => .jdplf na
  | .jp .jdplnf na => .jdplnf na
  | .jp .jnsiak na => .jnsiak na
  | .jp .jsiak na => .jsiak na
  | .jp .jnsoak na => .jnsoak na
  | .jp .jsoak na => .jsoak na
  | .jp .jnrqm na => .jnrqm na
  | .jp .jrqm na => .jrqm na
  | .ld id dst => .ld id dst

/-- The instruction of a word under an encoding, or why there is none (R121). -/
def decodeWith (e : Encoding) (w : InstrWord) : Except DecodeError Instr := (decodeForm e w).map ofForm

/-- The word of an instruction under an encoding (R102 to R105). -/
def encodeWith (e : Encoding) (i : Instr) : InstrWord := encodeForm e i.form

/-- The instruction of a word, or why there is none, under the encoding of the configuration. -/
def decode (w : InstrWord) : Except DecodeError Instr := decodeWith Config.encoding w

/-- The word of an instruction under the encoding of the configuration. -/
def encode (i : Instr) : InstrWord := encodeWith Config.encoding i

/-- An instruction word as the opcode table numbers its bits: one 24-bit word, D0 the least significant bit, the
bits above `nbits` zero. There is no byte order in an instruction (R75). -/
def tableWord (nbits w : Nat) : InstrWord := BitVec.ofNat 24 (w % 2 ^ nbits)

/-- What the decoder reads from a word of the opcode table. -/
def decodeTableWord (nbits w : Nat) : Option Instr :=
  match decode (tableWord nbits w) with
  | .ok i => some i
  | .error _ => none

end Sys2Proof
end

