-- ==== Sys2Proof/Machine/State.lean ====
section
/-! DEFINITION. The state of the machine (10_state.md R20 to R51), the moves of its agents (R9, R376), and the state
after reset (R51, R370). -/

namespace Sys2Proof.Machine

/-- Why a step stops: the model faults of R311, which stand where the source gives the hardware no behaviour, and
the bus cycles of R329. All are safe: nothing is provable of a run past one. -/
inductive Fault where
  /-- A fetched JP or LD word that stands for no instruction (R116, R117; D3, D16): raised by the fetch, at decode. Safe. -/
  | reservedEncoding
  /-- OP or RT with a (SRC, DST) pair the source says cannot be specified (R118, R226; D17): raised by every OP and
  RT meaning, and at decode, before anything changes. Safe. -/
  | forbiddenTransfer
  /-- RT with no return address on the stack (R25, R230; D7): raised by every RT meaning before anything changes. Safe. -/
  | stackUnderflow
  /-- A write of SO while SO ACK = 1 (R218, R355; D24): raised by OP, RT and LD with DST = @SOL or @SOM before
  anything changes. Safe. -/
  | serialOutputOverrun
  /-- A host bus cycle Table 3-6 marks "Inhibited" (R321, R329; U9): raised by a host move, never by an instruction. Safe. -/
  | inhibitedHostAccess
  deriving DecidableEq, Repr

/-- Why an instruction is given no meaning. -/
inductive Refusal where
  /-- Raised by `exec` for an instruction whose meaning is not written yet. Safe. -/
  | notModelled (mnemonic : String)
  deriving DecidableEq, Repr

/-- A flag register (R35). -/
structure Flags where
  s1  : Bool := false
  s0  : Bool := false
  c   : Bool := false
  z   : Bool := false
  ov1 : Bool := false
  ov0 : Bool := false
  deriving DecidableEq, Repr

/-- A memory: pairs of a byte address and a byte, in one canonical form (`Memory.wf` of Machine/Ops.lean). -/
abbrev Memory := List Host.Cell

/-- The levels of the host's bus pins (R321, Table 3-6). -/
structure BusPins where
  cs   : Bool
  a0   : Bool
  dack : Bool
  wr   : Bool
  rd   : Bool
  deriving DecidableEq, Repr

/-- One step of one agent (R9, R376), with the inputs its pins carry. -/
inductive Move where
  /-- The core: the interrupt if one is pending, else one instruction. -/
  | core
  /-- The host CPU: a bus cycle, with the byte on D0 to D7 (R321). -/
  | host (pins : BusPins) (data : Byte)
  /-- A rising edge of SCK with the levels of SIEN and SI (R342). -/
  | sckRise (sien : Bool) (si : Bool)
  /-- A falling edge of SCK with the level of SOEN (R350). -/
  | sckFall (soen : Bool)
  /-- The output side takes SO into its shift register (R348). -/
  | soLoad
  /-- The INT pin is observed at a level (R301). -/
  | intPin (level : Bool)
  /-- A pulse on RST (R370). -/
  | reset
  deriving DecidableEq, Repr

/-- Everything the spec gives the machine (R20, R47 to R49), and the model's own `siMixed`, `freeIndex` and
`schedule` (logs 10, 8, 13). -/
structure State where
  /-- R21. -/
  pc    : CodeAddr
  /-- R23: newest first. -/
  stack : List CodeAddr
  /-- R27. -/
  rp    : RomAddr
  /-- R30. -/
  dp    : RamAddr
  /-- R29: RAM word n at byte addresses 2n and 2n + 1 (log 4). -/
  ram   : Memory
  /-- R22: instruction word n at 4n to 4n + 2 (R80, log 4). -/
  irom  : Memory
  /-- R26: data word n at 2000H + 2n and the next (R80, log 4). -/
  drom  : Memory
  /-- R31. -/
  k     : Word
  /-- R31. -/
  l     : Word
  /-- R32. -/
  m     : Word
  /-- R32. -/
  n     : Word
  /-- AccA (R34). -/
  a     : Word
  /-- AccB (R34). -/
  b     : Word
  /-- R35. -/
  flagA : Flags
  /-- R35. -/
  flagB : Flags
  /-- R39. -/
  tr    : Word
  /-- R39. -/
  trb   : Word
  /-- The status register (R41, R42). -/
  sr    : Word
  /-- R44. -/
  dr    : Word
  /-- R45: the first bit received is bit 15 of a 16-bit word. -/
  si    : Word
  /-- R46: bit 15 is sent first. -/
  so    : Word
  /-- R45. -/
  siAck : Bool
  /-- R46. -/
  soAck : Bool
  /-- The pin DRQ (R49, R330). -/
  drq   : Bool
  /-- The pin SORQ (R47, R349). -/
  sorq  : Bool
  /-- The pin SO as the last falling edge of SCK left it; none is high impedance (R354). -/
  soPin : Option Bool
  /-- The byte the last host read put on D0 to D7 (R324); none before the first (log 16). -/
  hostBus : Option Byte
  /-- R47, R342. -/
  siShift : Word
  /-- R47: the bits taken so far. -/
  siCount : Nat
  /-- The model's own: SIC has changed since the first bit of the word now arriving (R346, log 10). -/
  siMixed : Bool
  /-- R47, R350. -/
  soShift : Word
  /-- R47: the bits still to send. -/
  soCount : Nat
  /-- R47: a word has been moved to the shift register and SORQ has not yet risen. -/
  soLoaded : Bool
  /-- R48, R301. -/
  intPending : Bool
  /-- R48: the INT pin when last observed. -/
  intPrev : Bool
  /-- R48, R308. -/
  intLatched : Bool
  /-- The model's own: the index of the next free value (log 8). -/
  freeIndex : Nat
  /-- The model's own: the moves to come; empty stands for core moves for ever (log 13). -/
  schedule : List Move
  deriving DecidableEq, Repr

/-- The machine right after reset (R51, R370, R373). The registers R51 leaves unspecified hold zero (log 1), the
hidden state is empty (log 7), the memories list nothing (logs 2, 3). -/
def State.reset : State where
  pc := 0
  stack := []
  rp := 0
  dp := 0
  ram := []
  irom := []
  drom := []
  k := 0
  l := 0
  m := 0
  n := 0
  a := 0
  b := 0
  flagA := {}
  flagB := {}
  tr := 0
  trb := 0
  sr := 0
  dr := 0
  si := 0
  so := 0
  siAck := false
  soAck := false
  drq := false
  sorq := false
  soPin := none
  hostBus := none
  siShift := 0
  siCount := 0
  siMixed := false
  soShift := 0
  soCount := 0
  soLoaded := false
  intPending := false
  intPrev := false
  intLatched := false
  freeIndex := 0
  schedule := []

end Sys2Proof.Machine
end

