-- ==== Sys2Proof/Machine/Ops.lean ====
section
/-! DEFINITION. The named operations over memory and registers (10_state.md, 20_memory.md), and taking and leaving
the interrupt (60_exceptions.md R303, R305). -/

namespace Sys2Proof

/-- The default of SR_LAYOUT, which the spec supplies from general knowledge (R8, R42, D4; log 6, PRESUMED). -/
def Config.srLayout : SrLayout where
  rqm := 15
  uf1 := 14
  uf0 := 13
  drs := 12
  dma := 11
  drc := 10
  soc := 9
  sic := 8
  ei  := 7
  p1  := 1
  p0  := 0

namespace Machine

/-! ### The three memories (R70) -/

/-- The three address spaces of R70. -/
inductive Space where
  | irom | drom | ram
  deriving DecidableEq, Repr

/-- What an unlisted byte reads as: an erased ROM byte is all ones (R80, D31; log 3); RAM after reset is
unspecified and reads as zero here (R51, R371; log 2). -/
def Space.blank : Space → Byte
  | .irom => 0xFF
  | .drom => 0xFF
  | .ram => 0x00

/-- The byte addresses of a space, first and one past the last: R80's map for the ROMs, two bytes a RAM word (log 4). -/
def Space.range : Space → Nat × Nat
  | .irom => (0x0000, 0x2000)
  | .drom => (0x2000, 0x2800)
  | .ram => (0x0000, 0x0200)

/-- The canonical form: addresses strictly rising and in the space, no byte equal to the blank one. -/
abbrev Memory.wf (sp : Space) (m : Memory) : Prop :=
  m.Pairwise (fun p q => p.1 < q.1) ∧ ∀ p ∈ m, p.2 ≠ sp.blank ∧ sp.range.1 ≤ p.1 ∧ p.1 < sp.range.2

/-- The byte at an address. -/
def Memory.read (sp : Space) : Memory → Nat → Byte
  | [], _ => sp.blank
  | (x, v) :: rest, addr => if x = addr then v else Memory.read sp rest addr

/-- A byte written at an address; the canonical form is kept. -/
def Memory.write (sp : Space) : Memory → Nat → Byte → Memory
  | [], addr, v => if v = sp.blank then [] else [(addr, v)]
  | (x, u) :: rest, addr, v =>
    if addr < x then if v = sp.blank then (x, u) :: rest else (addr, v) :: (x, u) :: rest
    else if addr = x then if v = sp.blank then rest else (addr, v) :: rest
    else (x, u) :: Memory.write sp rest addr v

/-- The byte address of RAM word `i`. -/
def ramByte (i : RamAddr) : Nat := 2 * i.toNat

/-- The byte address of data ROM word `i` (R80). -/
def dromByte (i : RomAddr) : Nat := 0x2000 + 2 * i.toNat

/-- The byte address of instruction word `i` (R80). -/
def iromByte (i : CodeAddr) : Nat := 4 * i.toNat

/-- A 16-bit word, low byte at the lower byte address (log 4). -/
def Memory.readWord (sp : Space) (m : Memory) (addr : Nat) : Word :=
  m.read sp (addr + 1) ++ m.read sp addr

/-- A 16-bit word written, low byte at the lower byte address (log 4). -/
def Memory.writeWord (sp : Space) (m : Memory) (addr : Nat) (v : Word) : Memory :=
  (m.write sp addr (v.extractLsb' 0 8)).write sp (addr + 1) (v.extractLsb' 8 8)

/-- `RAM[i]` (R73). -/
def State.ramAt (s : State) (i : RamAddr) : Word := s.ram.readWord .ram (ramByte i)

/-- `MemWrite(RAM, i, 16, v)` (R11, R73). -/
def State.writeRam (i : RamAddr) (v : Word) (s : State) : State :=
  { s with ram := s.ram.writeWord .ram (ramByte i) v }

/-- `DROM[i]` (R72). -/
def State.dromAt (s : State) (i : RomAddr) : Word := s.drom.readWord .drom (dromByte i)

/-- `IROM[i]` (R71): D7 to D0 in the lowest byte (log 4). -/
def State.iromAt (s : State) (i : CodeAddr) : InstrWord :=
  s.irom.read .irom (iromByte i + 2) ++ s.irom.read .irom (iromByte i + 1) ++ s.irom.read .irom (iromByte i)

/-- The word a core step fetches: `MemRead(IROM, pc, 24)` (R71). -/
def State.fetch (s : State) : InstrWord := s.iromAt s.pc

/-- The instruction ROM with one word in it replaced, as the program is loaded from outside (R8; log 14). -/
def Memory.loadInstr (m : Memory) (i : CodeAddr) (w : InstrWord) : Memory :=
  ((m.write .irom (iromByte i) (w.extractLsb' 0 8)).write .irom (iromByte i + 1) (w.extractLsb' 8 8)).write .irom
    (iromByte i + 2) (w.extractLsb' 16 8)

/-- RO, the data ROM word at RP (R28). -/
def State.ro (s : State) : Word := s.dromAt s.rp

/-- `DP | 40H`, the second RAM address of DST = @KLM (R29, R73). -/
def State.dpK (s : State) : RamAddr := s.dp ||| 0x40

/-- `rev16` (R190). -/
def rev16 (v : Word) : Word := v.reverse

/-! ### The status register (R42; SR_LAYOUT gives the places, log 6) -/

/-- Bit of RQM. -/
def srRQM : Nat := Config.srLayout.rqm
/-- Bit of UF1. -/
def srUF1 : Nat := Config.srLayout.uf1
/-- Bit of UF0. -/
def srUF0 : Nat := Config.srLayout.uf0
/-- Bit of DRS. -/
def srDRS : Nat := Config.srLayout.drs
/-- Bit of DMA. -/
def srDMA : Nat := Config.srLayout.dma
/-- Bit of DRC. -/
def srDRC : Nat := Config.srLayout.drc
/-- Bit of SOC. -/
def srSOC : Nat := Config.srLayout.soc
/-- Bit of SIC. -/
def srSIC : Nat := Config.srLayout.sic
/-- Bit of EI. -/
def srEI : Nat := Config.srLayout.ei
/-- Bit of P1. -/
def srP1 : Nat := Config.srLayout.p1
/-- Bit of P0. -/
def srP0 : Nat := Config.srLayout.p0

/-- One bit set. -/
def oneBit (i : Nat) : Word := 1#16 <<< i

/-- The word with bit `i` set. -/
def setBit (i : Nat) (v : Word) : Word := v ||| oneBit i

/-- The word with bit `i` cleared. -/
def clearBit (i : Nat) (v : Word) : Word := v &&& ~~~oneBit i

/-- The nine read/write bits of SR (R217). -/
def srWritable : Word :=
  oneBit srUF1 ||| oneBit srUF0 ||| oneBit srDMA ||| oneBit srDRC ||| oneBit srSOC ||| oneBit srSIC ||| oneBit srEI
    ||| oneBit srP1 ||| oneBit srP0

/-- The two bits of SR only the hardware writes (R43). -/
def srReadOnly : Word := oneBit srRQM ||| oneBit srDRS

/-- One bit of SR. -/
def State.srBit (s : State) (i : Nat) : Bool := s.sr.getLsbD i

/-- SR as SRC = SR and the host read it: the places of no bit read as 0 (R201, D18). -/
def State.srValue (s : State) : Word := s.sr &&& (srWritable ||| srReadOnly)

/-- The new SR of `SrWrite(v)`, before a latched interrupt: nine bits from the bus, RQM and DRS kept, DRS forced to
0 by DRC = 1 (R217). -/
def srWritten (old v : Word) : Word :=
  let new := (old &&& srReadOnly) ||| (v &&& srWritable)
  if new.getLsbD srDRC then clearBit srDRS new else new

/-- `SrWrite(v)` (R217). Changing SIC while a word arrives marks that word (R346, log 10); an edge of INT latched
while EI = 0 is taken up when EI is set (R308). -/
def State.writeSR (v : Word) (s : State) : State :=
  let new := srWritten s.sr v
  let mixed := s.siMixed || (s.siCount != 0 && new.getLsbD srSIC != s.sr.getLsbD srSIC)
  if new.getLsbD srEI && s.intLatched then
    { s with sr := clearBit srEI new, siMixed := mixed, intLatched := false, intPending := true }
  else { s with sr := new, siMixed := mixed }

/-- The core has touched DR: RQM is set, and DRQ in DMA mode (R199, R216, R322, R330). -/
def State.requestHost (s : State) : State :=
  { s with sr := setBit srRQM s.sr, drq := s.drq || s.srBit srDMA }

/-- SGN, by SA1 (R40). -/
def State.sgn (s : State) : Word := if s.flagA.s1 then 0x7FFF else 0x8000

/-- The pin P0 (R49, R217). -/
def State.pinP0 (s : State) : Bool := s.srBit srP0

/-- The pin P1 (R49, R217). -/
def State.pinP1 (s : State) : Bool := s.srBit srP1

/-- `SoWrite(v)` once SO ACK = 0 (R218); the fault for SO ACK = 1 is raised before (R311). -/
def State.writeSO (v : Word) (s : State) : State := { s with so := v, soAck := true }

/-! ### Multiplier (R32, R33) -/

/-- The 31-bit product shifted left one place, M above N (R32). -/
def product (k l : Word) : BitVec 32 := BitVec.ofInt 32 (2 * (k.toInt * l.toInt))

/-- The M of `mul(k, l)` (R32). -/
def productM (k l : Word) : Word := (product k l).extractLsb' 16 16

/-- The N of `mul(k, l)` (R32). -/
def productN (k l : Word) : Word := (product k l).extractLsb' 0 16

/-- `(M, N) <- mul(K, L)`, at the end of every instruction (R33). -/
def State.multiply (s : State) : State := { s with m := productM s.k s.l, n := productN s.k s.l }

/-! ### Program counter, stack, interrupt (R21 to R25, R303) -/

/-- `pc <- trunc_11(pc + 1)` (R21, D8). -/
def State.nextPc (s : State) : State := { s with pc := s.pc + 1 }

/-- `pc <- target`. -/
def State.jumpTo (na : CodeAddr) (s : State) : State := { s with pc := na }

/-- `push(v)`: four levels, the oldest is lost (R24). -/
def pushReturn (v : CodeAddr) (stack : List CodeAddr) : List CodeAddr := (v :: stack).take 4

/-- The interrupt entry (R82, R303). -/
def interruptEntry : CodeAddr := 0x100

/-- Taking the interrupt, in place of an instruction (R303): nothing but PC and the request changes; EI fell at
detection (R302). -/
def State.takeInterrupt (s : State) : State :=
  { s with intPending := false, stack := pushReturn s.pc s.stack, pc := interruptEntry }

/-- The return from a subroutine or the interrupt: only PC, from the popped entry (R25, R231). -/
def State.returnTo (ret : CodeAddr) (rest : List CodeAddr) (s : State) : State := { s with stack := rest, pc := ret }

/-! ### Pointers (42_op_dp_rp.md) -/

/-- `DplOp` (R180). -/
def dplNext : DplOp → BitVec 4 → BitVec 4
  | .nop, d => d
  | .inc, d => d + 1
  | .dec, d => d - 1
  | .clr, _ => 0

/-- DPL, the lower four bits of a DP value (R30). -/
def dpl (dp : RamAddr) : BitVec 4 := dp.extractLsb' 0 4

/-- DPH, the upper four bits of a DP value (R30). -/
def dph (dp : RamAddr) : BitVec 4 := dp.extractLsb' 4 4

/-- DP after the DPL and DPH.M fields (R180, R185). -/
def dpNext (op : DplOp) (mask : BitVec 4) (dp : RamAddr) : RamAddr := (dph dp ^^^ mask) ++ dplNext op (dpl dp)

/-- RP after the RPDCR bit (R188, D9). -/
def rpNext : RpOp → RomAddr → RomAddr
  | .nop, rp => rp
  | .dec, rp => rp - 1

/-- `DpRpUpdate`: each pointer's fields, ignored when the transfer writes that pointer (R180, R186, R188). -/
def State.stepPointers (f : OpFields) (s : State) : State :=
  { s with
    dp := if f.dst = .dp then s.dp else dpNext f.dpl f.dphm s.dp
    rp := if f.dst = .rp then s.rp else rpNext f.rpdcr s.rp }

end Machine

end Sys2Proof
end

