-- ==== Sys2Proof/Machine/Agents.lean ====
section
/-! DEFINITION. The steps of the agents outside the core (60_exceptions.md R301, R308, R320 to R356; 70_reset_and_hazards.md
R370), each atomic (R85). -/

namespace Sys2Proof.Machine

/-! ### The host CPU (R320 to R330) -/

/-- The functions of Table 3-6 (R321). -/
inductive BusFunction where
  | unaffected | hostWriteDR | dmaWriteDR | hostReadDR | dmaReadDR | hostReadSR | inhibited
  deriving DecidableEq, Repr

/-- Table 3-6, complete (R321; D32): the pins in the order CS, A0, DACK, WR, RD. -/
def busFunction (p : BusPins) : BusFunction :=
  match p.cs, p.a0, p.dack, p.wr, p.rd with
  | true, _, true, _, _ => .unaffected
  | _, _, true, true, true => .unaffected
  | false, false, true, false, true => .hostWriteDR
  | _, _, false, false, true => .dmaWriteDR
  | false, false, true, true, false => .hostReadDR
  | _, _, false, true, false => .dmaReadDR
  | false, true, true, true, false => .hostReadSR
  | false, true, true, false, true => .inhibited
  | false, _, true, false, false => .inhibited
  | _, _, false, false, false => .inhibited
  | _, _, false, true, true => .inhibited

/-- `HostReadSR()`: the upper byte of SR on D7 to D0; nothing else changes (R321). -/
def State.hostReadSR (s : State) : State := { s with hostBus := some (s.srValue.extractLsb' 8 8) }

/-- `HostWriteDR(b)` (R323); in 8-bit mode the upper byte is a free value (R325, log 9). -/
def State.hostWriteDR (data : Byte) (s : State) : State :=
  if s.srBit srDRC then
    { s with
      dr := Config.freeByte s.freeIndex ++ data
      freeIndex := s.freeIndex + 1
      sr := clearBit srRQM s.sr }
  else if s.srBit srDRS then
    { s with dr := data ++ s.dr.extractLsb' 0 8, sr := clearBit srRQM (clearBit srDRS s.sr) }
  else { s with dr := s.dr.extractLsb' 8 8 ++ data, sr := setBit srDRS s.sr }

/-- `HostReadDR()` (R324). -/
def State.hostReadDR (s : State) : State :=
  if s.srBit srDRC then
    { s with hostBus := some (s.dr.extractLsb' 0 8), sr := clearBit srRQM s.sr }
  else if s.srBit srDRS then
    { s with hostBus := some (s.dr.extractLsb' 8 8), sr := clearBit srRQM (clearBit srDRS s.sr) }
  else { s with hostBus := some (s.dr.extractLsb' 0 8), sr := setBit srDRS s.sr }

/-- The falling edge of DACK: DRQ ends with the only byte, or with the upper byte of a pair (R330). -/
def State.dmaAcknowledge (s : State) : State :=
  if s.srBit srDRC || s.srBit srDRS then { s with drq := false } else s

/-- `DmaWriteDR(b)` (R330). -/
def State.dmaWriteDR (data : Byte) (s : State) : State := s.dmaAcknowledge.hostWriteDR data

/-- `DmaReadDR()` (R330). -/
def State.dmaReadDR (s : State) : State := s.dmaAcknowledge.hostReadDR

/-- A bus cycle (R321); an inhibited one leaves the model (R329, U9). -/
def State.hostCycle (p : BusPins) (data : Byte) (s : State) : Host.Outcome State Fault Refusal :=
  match busFunction p with
  | .unaffected => .next s
  | .hostWriteDR => .next (s.hostWriteDR data)
  | .dmaWriteDR => .next (s.dmaWriteDR data)
  | .hostReadDR => .next s.hostReadDR
  | .dmaReadDR => .next s.dmaReadDR
  | .hostReadSR => .next s.hostReadSR
  | .inhibited => .fault .inhibitedHostAccess

/-! ### The serial input side (R340 to R346) -/

/-- `len` of R342 and R348: 16 bits, or 8 when the length bit is set. -/
def serialLen (short : Bool) : Nat := if short then 8 else 16

/-- The word `SiComplete` transfers to SI (R343; SI8_PLACEMENT is log 12). -/
def siWord (short : Bool) (shift : Word) : Word :=
  if short then
    match Config.si8Placement with
    | .high => shift.extractLsb' 0 8 ++ (0 : Byte)
    | .low => (0 : Byte) ++ shift.extractLsb' 0 8
  else shift

/-- `SiComplete()` (R343); a word during which SIC changed arrives as a free value (R346, log 10). -/
def State.siComplete (s : State) : State :=
  if s.siMixed then
    { s with
      si := Config.freeWord s.freeIndex
      freeIndex := s.freeIndex + 1
      siAck := true
      siCount := 0
      siMixed := false }
  else { s with si := siWord (s.srBit srSIC) s.siShift, siAck := true, siCount := 0 }

/-- `SckRise(sien, bit)` (R341, R342, R344). -/
def State.sckRise (sien bit : Bool) (s : State) : State :=
  if sien then s
  else
    let t := { s with siShift := s.siShift.extractLsb' 0 15 ++ BitVec.ofBool bit, siCount := s.siCount + 1 }
    if serialLen (s.srBit srSIC) ≤ t.siCount then t.siComplete else t

/-! ### The serial output side (R347 to R356) -/

/-- `Sel(v)` (R352; SO8_SELECT is log 12). -/
def soSelect (short : Bool) (v : Word) : Word :=
  if short then
    match Config.so8Select with
    | .high => v.extractLsb' 8 8 ++ (0 : Byte)
    | .low => v.extractLsb' 0 8 ++ (0 : Byte)
  else v

/-- SO taken into the shift register, with its length (R348, R351, R356). -/
def State.takeSO (s : State) : State :=
  { s with
    soShift := soSelect (s.srBit srSOC) s.so
    soCount := serialLen (s.srBit srSOC)
    soAck := false }

/-- `SoLoad()`, possible when SO ACK = 1 and no word is being sent (R348); otherwise nothing happens (log 17). -/
def State.soLoad (s : State) : State :=
  if s.soAck && s.soCount == 0 then { s.takeSO with soLoaded := true } else s

/-- `SoEnd()` (R351). -/
def State.soEnd (s : State) : State := if s.soAck then s.takeSO else { s with sorq := false }

/-- `SckFall(soen)` (R349, R350, R353): the bit sent, or high impedance, stands on the SO pin. -/
def State.sckFall (soen : Bool) (s : State) : State :=
  if s.soLoaded && !s.sorq then { s with sorq := true, soLoaded := false, soPin := none }
  else if s.sorq && !soen && s.soCount != 0 then
    let t :=
      { s with
        soPin := some s.soShift.msb
        soShift := s.soShift.extractLsb' 0 15 ++ (0 : BitVec 1)
        soCount := s.soCount - 1 }
    if t.soCount = 0 then t.soEnd else t
  else { s with soPin := none }

/-! ### The pins INT and RST (R301, R308, R370) -/

/-- `EdgeWhileDisabled()` (R308; INT_EDGE_WHILE_DISABLED is log 12). -/
def State.edgeWhileDisabled (s : State) : State :=
  match Config.intEdgeWhileDisabled with
  | .dropped => s
  | .latched => { s with intLatched := true }

/-- `IntPin(level)` (R301, R302). -/
def State.intPin (level : Bool) (s : State) : State :=
  let t :=
    if !s.intPrev && level then
      if s.srBit srEI then { s with intPending := true, sr := clearBit srEI s.sr } else s.edgeWhileDisabled
    else s
  { t with intPrev := level }

/-- RAM with every byte a free value, from index `i` on (R370, U3; log 11). -/
def freeRam (i : Nat) : Memory :=
  (List.range 0x200).foldl (fun mem addr => mem.write .ram addr (Config.freeByte (i + addr))) []

/-- `Reset()` in the middle of a run (R370, R309, R372): what reset clears is cleared, what the source does not list
is a free value (log 11). The ROMs, the level of INT, the byte on D0 to D7, and the moves to come are not the
reset's. -/
def State.pinReset (s : State) : State :=
  let w := fun j => Config.freeWord (s.freeIndex + j)
  { State.reset with
    irom := s.irom
    drom := s.drom
    intPrev := s.intPrev
    hostBus := s.hostBus
    schedule := s.schedule
    a := w 0
    b := w 1
    tr := w 2
    trb := w 3
    k := w 4
    l := w 5
    m := productM (w 4) (w 5)
    n := productN (w 4) (w 5)
    dp := (w 6).extractLsb' 0 8
    rp := (w 7).extractLsb' 0 10
    dr := w 8
    si := w 9
    so := w 10
    siShift := w 11
    soShift := w 12
    ram := freeRam (s.freeIndex + 13)
    freeIndex := s.freeIndex + 13 + 0x200 }

end Sys2Proof.Machine
end

