-- ==== Sys2Proof/Machine/Flags.lean ====
section
/-! DEFINITION. The ALU as a function and the six flags (41_op_alu.md R140 to R165). -/

namespace Sys2Proof.Machine

/-- `arith_flags(f, r, c, v)` (R147): all six flags from the result; S1 and OV1 by R145 and R146 (D5). -/
def arithFlags (f : Flags) (r : Word) (c v : Bool) : Flags where
  s1 := if f.ov1 then f.s1 else r.msb
  s0 := r.msb
  c := c
  z := r == 0
  ov1 := if v then (if f.ov1 then r.msb == f.s1 else true) else f.ov1
  ov0 := v

/-- `logic_flags(r, c)` (R147), with the free value that stands for the undefined S1 (U1). -/
def logicFlags (r : Word) (c s1 : Bool) : Flags where
  s1 := s1
  s0 := r.msb
  c := c
  z := r == 0
  ov1 := false
  ov0 := false

/-- A carry or borrow as a number. -/
def bitNat (c : Bool) : Nat := if c then 1 else 0

/-- OV0 of an exact result (R144). -/
def overflows (x : Int) : Bool := x > 32767 || x < -32768

/-- The exact signed sum narrowed, with its carry out and overflow (R143, R144). -/
def addFlags (f : Flags) (q p : Word) (cin : Bool) : Word × Flags :=
  let x := q.toInt + p.toInt + bitNat cin
  let r := BitVec.ofInt 16 x
  (r, arithFlags f r (decide (0xFFFF < q.toNat + p.toNat + bitNat cin)) (overflows x))

/-- The exact signed difference narrowed, with its borrow out and overflow (R143, R144, D27). -/
def subFlags (f : Flags) (q p : Word) (bin : Bool) : Word × Flags :=
  let x := q.toInt - p.toInt - bitNat bin
  let r := BitVec.ofInt 16 x
  (r, arithFlags f r (decide (q.toNat < p.toNat + bitNat bin)) (overflows x))

/-- A result with the logic flags. -/
def withLogic (r : Word) (c s1 : Bool) : Word × Flags := (r, logicFlags r c s1)

/-- `ALU(op, q, p, ci, f)` (R140): Q input, P input, the carry not selected, the selected flags before, and the free
S1. NOP makes no call (R149) and gives its inputs back. -/
def alu (op : AluOp) (q p : Word) (ci : Bool) (f : Flags) (s1 : Bool) : Word × Flags :=
  match op with
  | .nop => (q, f)
  | .or => withLogic (q ||| p) false s1
  | .and => withLogic (q &&& p) false s1
  | .xor => withLogic (q ^^^ p) false s1
  | .sub => subFlags f q p false
  | .add => addFlags f q p false
  | .sbb => subFlags f q p ci
  | .adc => addFlags f q p ci
  | .dec => subFlags f q 0 true
  | .inc => addFlags f q 0 true
  | .cmp => withLogic (~~~q) false s1
  | .shr1 => withLogic (q.extractLsb' 15 1 ++ q.extractLsb' 1 15) (q.getLsbD 0) s1
  | .shl1 => withLogic (q.extractLsb' 0 15 ++ BitVec.ofBool ci) q.msb s1
  | .shl2 => withLogic (q.extractLsb' 0 14 ++ 0b11#2) false s1
  | .shl4 => withLogic (q.extractLsb' 0 12 ++ 0b1111#4) false s1
  | .xchg => withLogic (q.extractLsb' 0 8 ++ q.extractLsb' 8 8) false s1

/-- The operations that leave S1 undefined: "x" in Table 3-3 (R145, R147). -/
def drawsS1 : AluOp → Bool
  | .or | .and | .xor | .cmp | .shr1 | .shl1 | .shl2 | .shl4 | .xchg => true
  | .nop | .sub | .add | .sbb | .adc | .dec | .inc => false

/-- `Acc[a]` (R11). -/
def State.acc (s : State) : Acc → Word
  | .a => s.a
  | .b => s.b

/-- `FLAG[a]` (R11). -/
def State.flag (s : State) : Acc → Flags
  | .a => s.flagA
  | .b => s.flagB

/-- The accumulator not selected. -/
def other : Acc → Acc
  | .a => .b
  | .b => .a

/-- The carry input: C of the flag register not selected (R148). -/
def State.carryIn (s : State) (x : Acc) : Bool := (s.flag (other x)).c

/-- The result and flags written to `Acc[a]` and `FLAG[a]` (R130 step 2, R133). -/
def State.writeAcc (x : Acc) (r : Word × Flags) (s : State) : State :=
  match x with
  | .a => { s with a := r.1, flagA := r.2 }
  | .b => { s with b := r.1, flagB := r.2 }

/-- What the ALU makes of an instruction, from the state before it (R130 step 2). -/
def State.aluResult (s : State) (op : AluOp) (x : Acc) (p : Word) : Word × Flags :=
  alu op (s.acc x) p (s.carryIn x) (s.flag x) (Config.freeBit s.freeIndex)

/-- Step 2 of R130: the ALU operation; an operation that leaves S1 undefined uses up one free value (log 8). -/
def State.aluStep (op : AluOp) (x : Acc) (p : Word) (s : State) : State :=
  match op with
  | .nop => s
  | op =>
    let t := s.writeAcc x (s.aluResult op x p)
    if drawsS1 op then { t with freeIndex := s.freeIndex + 1 } else t

end Sys2Proof.Machine
end

