-- ==== Sys2Proof/Machine/Operands.lean ====
section
/-! DEFINITION. The transfer of OP, RT and LD: every source with its read side effect, every destination with its
write side effect, and the P input (43_op_src_dst.md, 40_op.md R132). -/

namespace Sys2Proof.Machine

/-- The value of `ReadSrc(src)`, from the state before the instruction (R190 to R206). -/
def State.readSrc (s : State) : Src → Word
  | .non => s.trb
  | .a => s.a
  | .b => s.b
  | .tr => s.tr
  | .dp => s.dp.zeroExtend 16
  | .rp => s.rp.zeroExtend 16
  | .ro => s.ro
  | .sgn => s.sgn
  | .dr => s.dr
  | .drnf => s.dr
  | .sr => s.srValue
  | .sim => s.si
  | .sil => rev16 s.si
  | .k => s.k
  | .l => s.l
  | .mem => s.ramAt s.dp

/-- The side effect of `ReadSrc(src)`: DR asks the host, SIM and SIL clear SI ACK (R190). -/
def State.srcEffect (src : Src) (s : State) : State :=
  match src with
  | .dr => s.requestHost
  | .sim | .sil => { s with siAck := false }
  | .non | .a | .b | .tr | .dp | .rp | .ro | .sgn | .drnf | .sr | .k | .l | .mem => s

/-- `Psel(psel, idb)`, from the state before the instruction (R132). -/
def State.pInput (s : State) (psel : PSel) (idb : Word) : Word :=
  match psel with
  | .ram => s.ramAt s.dp
  | .idb => idb
  | .m => s.m
  | .n => s.n

/-- `WriteDst(dst, idb)` (R209 to R225). DP, RP, RAM and the data ROM are still those of the state before the
instruction when this runs (R131). -/
def State.writeDst (dst : Dst) (idb : Word) (s : State) : State :=
  match dst with
  | .non => s
  | .a => { s with a := idb }
  | .b => { s with b := idb }
  | .tr => { s with tr := idb }
  | .dp => { s with dp := idb.extractLsb' 0 8 }
  | .rp => { s with rp := idb.extractLsb' 0 10 }
  | .dr => { s.requestHost with dr := idb }
  | .sr => s.writeSR idb
  | .sol => s.writeSO (rev16 idb)
  | .som => s.writeSO idb
  | .k => { s with k := idb }
  | .klr => { s with k := idb, l := s.ro }
  | .klm => { s with l := idb, k := s.ramAt s.dpK }
  | .l => { s with l := idb }
  | .trb => { s with trb := idb }
  | .mem => s.writeRam s.dp idb

/-- A destination that writes SO while SO still holds a datum not taken (R218, D24). -/
def State.overruns (s : State) (dst : Dst) : Bool :=
  match dst with
  | .sol | .som => s.soAck
  | .non | .a | .b | .tr | .dp | .rp | .dr | .sr | .k | .klr | .klm | .l | .trb | .mem => false

end Sys2Proof.Machine
end

