-- ==== Sys2Proof/Machine/Op.lean ====
section
/-! DEFINITION. The OP instruction (40_op.md R130): what one OP or RT word does beside PC, the faults it is checked
for first, and one meaning per ALU operation. -/

namespace Sys2Proof.Machine

/-- Steps 1 to 5 of `exec_OP` (R130), which RT shares (R230): source to bus, ALU, bus to destination, pointers,
multiplier. Every value read is that of `s`, the state before the instruction (R131). -/
def opBody (op : AluOp) (f : OpFields) (s : State) : State :=
  let idb := s.readSrc f.src
  ((((s.srcEffect f.src).aluStep op f.asl (s.pInput f.psel idb)).writeDst f.dst idb).stepPointers f).multiply

/-- An OP instruction (R130): the model faults first, in the order of R311, then the body and `pc + 1` (R135). -/
def runOp (op : AluOp) (f : OpFields) (s : State) : Host.Outcome State Fault Refusal :=
  if forbidden f.src f.dst then .fault .forbiddenTransfer
  else if s.overruns f.dst then .fault .serialOutputOverrun
  else .next (opBody op f s).nextPc

/-- OP NOP (R149). -/
def execOpNop (f : OpFields) (s : State) : Host.Outcome State Fault Refusal := runOp .nop f s

/-- OP OR (R150). -/
def execOpOr (f : OpFields) (s : State) : Host.Outcome State Fault Refusal := runOp .or f s

/-- OP AND (R151). -/
def execOpAnd (f : OpFields) (s : State) : Host.Outcome State Fault Refusal := runOp .and f s

/-- OP XOR (R152). -/
def execOpXor (f : OpFields) (s : State) : Host.Outcome State Fault Refusal := runOp .xor f s

/-- OP SUB (R153). -/
def execOpSub (f : OpFields) (s : State) : Host.Outcome State Fault Refusal := runOp .sub f s

/-- OP ADD (R154). -/
def execOpAdd (f : OpFields) (s : State) : Host.Outcome State Fault Refusal := runOp .add f s

/-- OP SBB (R155). -/
def execOpSbb (f : OpFields) (s : State) : Host.Outcome State Fault Refusal := runOp .sbb f s

/-- OP ADC (R156). -/
def execOpAdc (f : OpFields) (s : State) : Host.Outcome State Fault Refusal := runOp .adc f s

/-- OP DEC (R157). -/
def execOpDec (f : OpFields) (s : State) : Host.Outcome State Fault Refusal := runOp .dec f s

/-- OP INC (R158). -/
def execOpInc (f : OpFields) (s : State) : Host.Outcome State Fault Refusal := runOp .inc f s

/-- OP CMP (R159). -/
def execOpCmp (f : OpFields) (s : State) : Host.Outcome State Fault Refusal := runOp .cmp f s

/-- OP SHR1 (R161). -/
def execOpShr1 (f : OpFields) (s : State) : Host.Outcome State Fault Refusal := runOp .shr1 f s

/-- OP SHL1 (R162). -/
def execOpShl1 (f : OpFields) (s : State) : Host.Outcome State Fault Refusal := runOp .shl1 f s

/-- OP SHL2 (R163). -/
def execOpShl2 (f : OpFields) (s : State) : Host.Outcome State Fault Refusal := runOp .shl2 f s

/-- OP SHL4 (R164). -/
def execOpShl4 (f : OpFields) (s : State) : Host.Outcome State Fault Refusal := runOp .shl4 f s

/-- OP XCHG (R165). -/
def execOpXchg (f : OpFields) (s : State) : Host.Outcome State Fault Refusal := runOp .xchg f s

end Sys2Proof.Machine
end

