-- ==== Sys2Proof/Machine/FieldValues.lean ====
section
/-! DEFINITION. The field-value rows of the opcode table (R125): each is the OP word in which that field alone is
written, every field not named being zero (R123; log 18). -/

namespace Sys2Proof.Machine

/-- P-SELECT = RAM alone (R132). -/
def execPselRam (s : State) : Host.Outcome State Fault Refusal :=
  runOp .nop { OpFields.zero with psel := .ram } s

/-- P-SELECT = IDB alone (R132). -/
def execPselIdb (s : State) : Host.Outcome State Fault Refusal :=
  runOp .nop { OpFields.zero with psel := .idb } s

/-- P-SELECT = M alone (R132). -/
def execPselM (s : State) : Host.Outcome State Fault Refusal :=
  runOp .nop { OpFields.zero with psel := .m } s

/-- P-SELECT = N alone (R132). -/
def execPselN (s : State) : Host.Outcome State Fault Refusal :=
  runOp .nop { OpFields.zero with psel := .n } s

/-- ASL = ACCA alone (R133). -/
def execAslA (s : State) : Host.Outcome State Fault Refusal :=
  runOp .nop { OpFields.zero with asl := .a } s

/-- ASL = ACCB alone (R133). -/
def execAslB (s : State) : Host.Outcome State Fault Refusal :=
  runOp .nop { OpFields.zero with asl := .b } s

/-- DPL = DPNOP alone (R181). -/
def execDplNop (s : State) : Host.Outcome State Fault Refusal :=
  runOp .nop { OpFields.zero with dpl := .nop } s

/-- DPL = DPINC alone (R182). -/
def execDplInc (s : State) : Host.Outcome State Fault Refusal :=
  runOp .nop { OpFields.zero with dpl := .inc } s

/-- DPL = DPDEC alone (R183). -/
def execDplDec (s : State) : Host.Outcome State Fault Refusal :=
  runOp .nop { OpFields.zero with dpl := .dec } s

/-- DPL = DPCLR alone (R184). -/
def execDplClr (s : State) : Host.Outcome State Fault Refusal :=
  runOp .nop { OpFields.zero with dpl := .clr } s

/-- DPH.M = M0..MF alone (R185). -/
def execDphm (m : BitVec 4) (s : State) : Host.Outcome State Fault Refusal :=
  runOp .nop { OpFields.zero with dphm := m } s

/-- RPDCR = RPNOP alone (R188). -/
def execRpNop (s : State) : Host.Outcome State Fault Refusal :=
  runOp .nop { OpFields.zero with rpdcr := .nop } s

/-- RPDCR = RPDEC alone (R188). -/
def execRpDec (s : State) : Host.Outcome State Fault Refusal :=
  runOp .nop { OpFields.zero with rpdcr := .dec } s

/-- SRC = NON alone (R191). -/
def execSrcNon (s : State) : Host.Outcome State Fault Refusal :=
  runOp .nop { OpFields.zero with src := .non } s

/-- SRC = A alone (R192). -/
def execSrcA (s : State) : Host.Outcome State Fault Refusal :=
  runOp .nop { OpFields.zero with src := .a } s

/-- SRC = B alone (R193). -/
def execSrcB (s : State) : Host.Outcome State Fault Refusal :=
  runOp .nop { OpFields.zero with src := .b } s

/-- SRC = TR alone (R194). -/
def execSrcTr (s : State) : Host.Outcome State Fault Refusal :=
  runOp .nop { OpFields.zero with src := .tr } s

/-- SRC = DP alone (R195). -/
def execSrcDp (s : State) : Host.Outcome State Fault Refusal :=
  runOp .nop { OpFields.zero with src := .dp } s

/-- SRC = RP alone (R196). -/
def execSrcRp (s : State) : Host.Outcome State Fault Refusal :=
  runOp .nop { OpFields.zero with src := .rp } s

/-- SRC = RO alone (R197). -/
def execSrcRo (s : State) : Host.Outcome State Fault Refusal :=
  runOp .nop { OpFields.zero with src := .ro } s

/-- SRC = SGN alone (R198). -/
def execSrcSgn (s : State) : Host.Outcome State Fault Refusal :=
  runOp .nop { OpFields.zero with src := .sgn } s

/-- SRC = DR alone (R199). -/
def execSrcDr (s : State) : Host.Outcome State Fault Refusal :=
  runOp .nop { OpFields.zero with src := .dr } s

/-- SRC = DRNF alone (R200). -/
def execSrcDrnf (s : State) : Host.Outcome State Fault Refusal :=
  runOp .nop { OpFields.zero with src := .drnf } s

/-- SRC = SR alone (R201). -/
def execSrcSr (s : State) : Host.Outcome State Fault Refusal :=
  runOp .nop { OpFields.zero with src := .sr } s

/-- SRC = SIM alone (R202). -/
def execSrcSim (s : State) : Host.Outcome State Fault Refusal :=
  runOp .nop { OpFields.zero with src := .sim } s

/-- SRC = SIL alone (R203). -/
def execSrcSil (s : State) : Host.Outcome State Fault Refusal :=
  runOp .nop { OpFields.zero with src := .sil } s

/-- SRC = K alone (R204). -/
def execSrcK (s : State) : Host.Outcome State Fault Refusal :=
  runOp .nop { OpFields.zero with src := .k } s

/-- SRC = L alone (R205). -/
def execSrcL (s : State) : Host.Outcome State Fault Refusal :=
  runOp .nop { OpFields.zero with src := .l } s

/-- SRC = MEM alone (R206). -/
def execSrcMem (s : State) : Host.Outcome State Fault Refusal :=
  runOp .nop { OpFields.zero with src := .mem } s

/-- DST = @NON alone (R210). -/
def execDstNon (s : State) : Host.Outcome State Fault Refusal :=
  runOp .nop { OpFields.zero with dst := .non } s

/-- DST = @A alone (R211). -/
def execDstA (s : State) : Host.Outcome State Fault Refusal :=
  runOp .nop { OpFields.zero with dst := .a } s

/-- DST = @B alone (R212). -/
def execDstB (s : State) : Host.Outcome State Fault Refusal :=
  runOp .nop { OpFields.zero with dst := .b } s

/-- DST = @TR alone (R213). -/
def execDstTr (s : State) : Host.Outcome State Fault Refusal :=
  runOp .nop { OpFields.zero with dst := .tr } s

/-- DST = @DP alone (R214). -/
def execDstDp (s : State) : Host.Outcome State Fault Refusal :=
  runOp .nop { OpFields.zero with dst := .dp } s

/-- DST = @RP alone (R215). -/
def execDstRp (s : State) : Host.Outcome State Fault Refusal :=
  runOp .nop { OpFields.zero with dst := .rp } s

/-- DST = @DR alone (R216). -/
def execDstDr (s : State) : Host.Outcome State Fault Refusal :=
  runOp .nop { OpFields.zero with dst := .dr } s

/-- DST = @SR alone (R217). -/
def execDstSr (s : State) : Host.Outcome State Fault Refusal :=
  runOp .nop { OpFields.zero with dst := .sr } s

/-- DST = @SOL alone (R218). -/
def execDstSol (s : State) : Host.Outcome State Fault Refusal :=
  runOp .nop { OpFields.zero with dst := .sol } s

/-- DST = @SOM alone (R219). -/
def execDstSom (s : State) : Host.Outcome State Fault Refusal :=
  runOp .nop { OpFields.zero with dst := .som } s

/-- DST = @K alone (R220). -/
def execDstK (s : State) : Host.Outcome State Fault Refusal :=
  runOp .nop { OpFields.zero with dst := .k } s

/-- DST = @KLR alone (R221). -/
def execDstKlr (s : State) : Host.Outcome State Fault Refusal :=
  runOp .nop { OpFields.zero with dst := .klr } s

/-- DST = @KLM alone (R222). -/
def execDstKlm (s : State) : Host.Outcome State Fault Refusal :=
  runOp .nop { OpFields.zero with dst := .klm } s

/-- DST = @L alone (R223). -/
def execDstL (s : State) : Host.Outcome State Fault Refusal :=
  runOp .nop { OpFields.zero with dst := .l } s

/-- DST = @TRB alone (R224). -/
def execDstTrb (s : State) : Host.Outcome State Fault Refusal :=
  runOp .nop { OpFields.zero with dst := .trb } s

/-- DST = @MEM alone (R225). -/
def execDstMem (s : State) : Host.Outcome State Fault Refusal :=
  runOp .nop { OpFields.zero with dst := .mem } s

end Sys2Proof.Machine
end

