-- ==== Sys2Proof/Machine/Jp.lean ====
section
/-! DEFINITION. The JP instructions (45_jp.md R240 to R277). A jump writes PC alone, CALL the stack too; the
multiplier runs as in every instruction (R33). -/

namespace Sys2Proof.Machine

/-- A jump to `na` when the condition holds, else `pc + 1` (R240). -/
def jumpIf (cond : Bool) (na : CodeAddr) (s : State) : Host.Outcome State Fault Refusal :=
  .next (if cond then s.jumpTo na else s.nextPc).multiply

/-- JMP (R241). -/
def execJmp (na : CodeAddr) (s : State) : Host.Outcome State Fault Refusal := jumpIf true na s

/-- CALL (R242). -/
def execCall (na : CodeAddr) (s : State) : Host.Outcome State Fault Refusal :=
  .next (State.jumpTo na { s with stack := pushReturn (s.pc + 1) s.stack }).multiply

/-- JNCA: CA = 0 (R244). -/
def execJnca (na : CodeAddr) (s : State) : Host.Outcome State Fault Refusal := jumpIf (!s.flagA.c) na s

/-- JCA: CA = 1 (R245). -/
def execJca (na : CodeAddr) (s : State) : Host.Outcome State Fault Refusal := jumpIf (s.flagA.c) na s

/-- JNCB: CB = 0 (R246). -/
def execJncb (na : CodeAddr) (s : State) : Host.Outcome State Fault Refusal := jumpIf (!s.flagB.c) na s

/-- JCB: CB = 1 (R247). -/
def execJcb (na : CodeAddr) (s : State) : Host.Outcome State Fault Refusal := jumpIf (s.flagB.c) na s

/-- JNZA: ZA = 0 (R248). -/
def execJnza (na : CodeAddr) (s : State) : Host.Outcome State Fault Refusal := jumpIf (!s.flagA.z) na s

/-- JZA: ZA = 1 (R249). -/
def execJza (na : CodeAddr) (s : State) : Host.Outcome State Fault Refusal := jumpIf (s.flagA.z) na s

/-- JNZB: ZB = 0 (R250). -/
def execJnzb (na : CodeAddr) (s : State) : Host.Outcome State Fault Refusal := jumpIf (!s.flagB.z) na s

/-- JZB: ZB = 1 (R251). -/
def execJzb (na : CodeAddr) (s : State) : Host.Outcome State Fault Refusal := jumpIf (s.flagB.z) na s

/-- JNOVA0: OVA0 = 0 (R252). -/
def execJnova0 (na : CodeAddr) (s : State) : Host.Outcome State Fault Refusal := jumpIf (!s.flagA.ov0) na s

/-- JOVA0: OVA0 = 1 (R253). -/
def execJova0 (na : CodeAddr) (s : State) : Host.Outcome State Fault Refusal := jumpIf (s.flagA.ov0) na s

/-- JNOVB0: OVB0 = 0 (R254). -/
def execJnovb0 (na : CodeAddr) (s : State) : Host.Outcome State Fault Refusal := jumpIf (!s.flagB.ov0) na s

/-- JOVB0: OVB0 = 1 (R255). -/
def execJovb0 (na : CodeAddr) (s : State) : Host.Outcome State Fault Refusal := jumpIf (s.flagB.ov0) na s

/-- JNOVA1: OVA1 = 0 (R256). -/
def execJnova1 (na : CodeAddr) (s : State) : Host.Outcome State Fault Refusal := jumpIf (!s.flagA.ov1) na s

/-- JOVA1: OVA1 = 1 (R257). -/
def execJova1 (na : CodeAddr) (s : State) : Host.Outcome State Fault Refusal := jumpIf (s.flagA.ov1) na s

/-- JNOVB1: OVB1 = 0 (R258). -/
def execJnovb1 (na : CodeAddr) (s : State) : Host.Outcome State Fault Refusal := jumpIf (!s.flagB.ov1) na s

/-- JOVB1: OVB1 = 1 (R259). -/
def execJovb1 (na : CodeAddr) (s : State) : Host.Outcome State Fault Refusal := jumpIf (s.flagB.ov1) na s

/-- JNSA0: SA0 = 0 (R260). -/
def execJnsa0 (na : CodeAddr) (s : State) : Host.Outcome State Fault Refusal := jumpIf (!s.flagA.s0) na s

/-- JSA0: SA0 = 1 (R261). -/
def execJsa0 (na : CodeAddr) (s : State) : Host.Outcome State Fault Refusal := jumpIf (s.flagA.s0) na s

/-- JNSB0: SB0 = 0 (R262). -/
def execJnsb0 (na : CodeAddr) (s : State) : Host.Outcome State Fault Refusal := jumpIf (!s.flagB.s0) na s

/-- JSB0: SB0 = 1 (R263). -/
def execJsb0 (na : CodeAddr) (s : State) : Host.Outcome State Fault Refusal := jumpIf (s.flagB.s0) na s

/-- JNSA1: SA1 = 0 (R264). -/
def execJnsa1 (na : CodeAddr) (s : State) : Host.Outcome State Fault Refusal := jumpIf (!s.flagA.s1) na s

/-- JSA1: SA1 = 1 (R265). -/
def execJsa1 (na : CodeAddr) (s : State) : Host.Outcome State Fault Refusal := jumpIf (s.flagA.s1) na s

/-- JNSB1: SB1 = 0 (R266). -/
def execJnsb1 (na : CodeAddr) (s : State) : Host.Outcome State Fault Refusal := jumpIf (!s.flagB.s1) na s

/-- JSB1: SB1 = 1 (R267). -/
def execJsb1 (na : CodeAddr) (s : State) : Host.Outcome State Fault Refusal := jumpIf (s.flagB.s1) na s

/-- JDPL0: DPL = 0 (R268). -/
def execJdpl0 (na : CodeAddr) (s : State) : Host.Outcome State Fault Refusal := jumpIf (dpl s.dp == 0) na s

/-- JDPLN0: DPL ≠ 0 (R269). -/
def execJdpln0 (na : CodeAddr) (s : State) : Host.Outcome State Fault Refusal := jumpIf (dpl s.dp != 0) na s

/-- JDPLF: DPL = FH (R270). -/
def execJdplf (na : CodeAddr) (s : State) : Host.Outcome State Fault Refusal := jumpIf (dpl s.dp == 0xF) na s

/-- JDPLNF: DPL ≠ FH (R271). -/
def execJdplnf (na : CodeAddr) (s : State) : Host.Outcome State Fault Refusal := jumpIf (dpl s.dp != 0xF) na s

/-- JNSIAK: SI ACK = 0 (R272). -/
def execJnsiak (na : CodeAddr) (s : State) : Host.Outcome State Fault Refusal := jumpIf (!s.siAck) na s

/-- JSIAK: SI ACK = 1 (R273). -/
def execJsiak (na : CodeAddr) (s : State) : Host.Outcome State Fault Refusal := jumpIf (s.siAck) na s

/-- JNSOAK: SO ACK = 0 (R274). -/
def execJnsoak (na : CodeAddr) (s : State) : Host.Outcome State Fault Refusal := jumpIf (!s.soAck) na s

/-- JSOAK: SO ACK = 1 (R275). -/
def execJsoak (na : CodeAddr) (s : State) : Host.Outcome State Fault Refusal := jumpIf (s.soAck) na s

/-- JNRQM: RQM = 0 (R276). -/
def execJnrqm (na : CodeAddr) (s : State) : Host.Outcome State Fault Refusal := jumpIf (!s.srBit srRQM) na s

/-- JRQM: RQM = 1 (R277). -/
def execJrqm (na : CodeAddr) (s : State) : Host.Outcome State Fault Refusal := jumpIf (s.srBit srRQM) na s

end Sys2Proof.Machine
end

