-- ==== Sys2Proof/Machine/Ld.lean ====
section
/-! DEFINITION. The LD instruction (46_ld.md R290). -/

namespace Sys2Proof.Machine

/-- LD (R290): the immediate over the bus to the destination, with every side effect of the destination; no flag. -/
def execLd (id : Word) (dst : Dst) (s : State) : Host.Outcome State Fault Refusal :=
  if s.overruns dst then .fault .serialOutputOverrun
  else .next (s.writeDst dst id).multiply.nextPc

end Sys2Proof.Machine
end

