-- ==== Sys2Proof/Machine/Rt.lean ====
section
/-! DEFINITION. The RT instruction (44_rt.md R230): the work of OP and the return, one meaning per ALU operation. -/

namespace Sys2Proof.Machine

/-- An RT instruction (R230): the model faults first, in the order of R311, then the work of OP and the pop of PC. -/
def runRt (op : AluOp) (f : OpFields) (s : State) : Host.Outcome State Fault Refusal :=
  if forbidden f.src f.dst then .fault .forbiddenTransfer
  else
    match s.stack with
    | [] => .fault .stackUnderflow
    | ret :: rest =>
      if s.overruns f.dst then .fault .serialOutputOverrun
      else .next ((opBody op f s).returnTo ret rest)

/-- RT NOP (R230, R149). -/
def execRtNop (f : OpFields) (s : State) : Host.Outcome State Fault Refusal := runRt .nop f s

/-- RT OR (R230, R150). -/
def execRtOr (f : OpFields) (s : State) : Host.Outcome State Fault Refusal := runRt .or f s

/-- RT AND (R230, R151). -/
def execRtAnd (f : OpFields) (s : State) : Host.Outcome State Fault Refusal := runRt .and f s

/-- RT XOR (R230, R152). -/
def execRtXor (f : OpFields) (s : State) : Host.Outcome State Fault Refusal := runRt .xor f s

/-- RT SUB (R230, R153). -/
def execRtSub (f : OpFields) (s : State) : Host.Outcome State Fault Refusal := runRt .sub f s

/-- RT ADD (R230, R154). -/
def execRtAdd (f : OpFields) (s : State) : Host.Outcome State Fault Refusal := runRt .add f s

/-- RT SBB (R230, R155). -/
def execRtSbb (f : OpFields) (s : State) : Host.Outcome State Fault Refusal := runRt .sbb f s

/-- RT ADC (R230, R156). -/
def execRtAdc (f : OpFields) (s : State) : Host.Outcome State Fault Refusal := runRt .adc f s

/-- RT DEC (R230, R157). -/
def execRtDec (f : OpFields) (s : State) : Host.Outcome State Fault Refusal := runRt .dec f s

/-- RT INC (R230, R158). -/
def execRtInc (f : OpFields) (s : State) : Host.Outcome State Fault Refusal := runRt .inc f s

/-- RT CMP (R230, R159). -/
def execRtCmp (f : OpFields) (s : State) : Host.Outcome State Fault Refusal := runRt .cmp f s

/-- RT SHR1 (R230, R161). -/
def execRtShr1 (f : OpFields) (s : State) : Host.Outcome State Fault Refusal := runRt .shr1 f s

/-- RT SHL1 (R230, R162). -/
def execRtShl1 (f : OpFields) (s : State) : Host.Outcome State Fault Refusal := runRt .shl1 f s

/-- RT SHL2 (R230, R163). -/
def execRtShl2 (f : OpFields) (s : State) : Host.Outcome State Fault Refusal := runRt .shl2 f s

/-- RT SHL4 (R230, R164). -/
def execRtShl4 (f : OpFields) (s : State) : Host.Outcome State Fault Refusal := runRt .shl4 f s

/-- RT XCHG (R230, R165). -/
def execRtXchg (f : OpFields) (s : State) : Host.Outcome State Fault Refusal := runRt .xchg f s

end Sys2Proof.Machine
end

