-- ==== Sys2Proof/Machine/Dispatch.lean ====
section
/-! DEFINITION. The dispatch: one arm per instruction. -/

namespace Sys2Proof.Machine

def exec (i : Instr) (s : State) : Host.Outcome State Fault Refusal :=
  match i with
  | .opNop f => Sys2Proof.Machine.execOpNop f s
  | .opOr f => Sys2Proof.Machine.execOpOr f s
  | .opAnd f => Sys2Proof.Machine.execOpAnd f s
  | .opXor f => Sys2Proof.Machine.execOpXor f s
  | .opSub f => Sys2Proof.Machine.execOpSub f s
  | .opAdd f => Sys2Proof.Machine.execOpAdd f s
  | .opSbb f => Sys2Proof.Machine.execOpSbb f s
  | .opAdc f => Sys2Proof.Machine.execOpAdc f s
  | .opDec f => Sys2Proof.Machine.execOpDec f s
  | .opInc f => Sys2Proof.Machine.execOpInc f s
  | .opCmp f => Sys2Proof.Machine.execOpCmp f s
  | .opShr1 f => Sys2Proof.Machine.execOpShr1 f s
  | .opShl1 f => Sys2Proof.Machine.execOpShl1 f s
  | .opShl2 f => Sys2Proof.Machine.execOpShl2 f s
  | .opShl4 f => Sys2Proof.Machine.execOpShl4 f s
  | .opXchg f => Sys2Proof.Machine.execOpXchg f s
  | .rtNop f => Sys2Proof.Machine.execRtNop f s
  | .rtOr f => Sys2Proof.Machine.execRtOr f s
  | .rtAnd f => Sys2Proof.Machine.execRtAnd f s
  | .rtXor f => Sys2Proof.Machine.execRtXor f s
  | .rtSub f => Sys2Proof.Machine.execRtSub f s
  | .rtAdd f => Sys2Proof.Machine.execRtAdd f s
  | .rtSbb f => Sys2Proof.Machine.execRtSbb f s
  | .rtAdc f => Sys2Proof.Machine.execRtAdc f s
  | .rtDec f => Sys2Proof.Machine.execRtDec f s
  | .rtInc f => Sys2Proof.Machine.execRtInc f s
  | .rtCmp f => Sys2Proof.Machine.execRtCmp f s
  | .rtShr1 f => Sys2Proof.Machine.execRtShr1 f s
  | .rtShl1 f => Sys2Proof.Machine.execRtShl1 f s
  | .rtShl2 f => Sys2Proof.Machine.execRtShl2 f s
  | .rtShl4 f => Sys2Proof.Machine.execRtShl4 f s
  | .rtXchg f => Sys2Proof.Machine.execRtXchg f s
  | .jmp na => Sys2Proof.Machine.execJmp na s
  | .call na => Sys2Proof.Machine.execCall na s
  | .jnca na => Sys2Proof.Machine.execJnca na s
  | .jca na => Sys2Proof.Machine.execJca na s
  | .jncb na => Sys2Proof.Machine.execJncb na s
  | .jcb na => Sys2Proof.Machine.execJcb na s
  | .jnza na => Sys2Proof.Machine.execJnza na s
  | .jza na => Sys2Proof.Machine.execJza na s
  | .jnzb na => Sys2Proof.Machine.execJnzb na s
  | .jzb na => Sys2Proof.Machine.execJzb na s
  | .jnova0 na => Sys2Proof.Machine.execJnova0 na s
  | .jova0 na => Sys2Proof.Machine.execJova0 na s
  | .jnovb0 na => Sys2Proof.Machine.execJnovb0 na s
  | .jovb0 na => Sys2Proof.Machine.execJovb0 na s
  | .jnova1 na => Sys2Proof.Machine.execJnova1 na s
  | .jova1 na => Sys2Proof.Machine.execJova1 na s
  | .jnovb1 na => Sys2Proof.Machine.execJnovb1 na s
  | .jovb1 na => Sys2Proof.Machine.execJovb1 na s
  | .jnsa0 na => Sys2Proof.Machine.execJnsa0 na s
  | .jsa0 na => Sys2Proof.Machine.execJsa0 na s
  | .jnsb0 na => Sys2Proof.Machine.execJnsb0 na s
  | .jsb0 na => Sys2Proof.Machine.execJsb0 na s
  | .jnsa1 na => Sys2Proof.Machine.execJnsa1 na s
  | .jsa1 na => Sys2Proof.Machine.execJsa1 na s
  | .jnsb1 na => Sys2Proof.Machine.execJnsb1 na s
  | .jsb1 na => Sys2Proof.Machine.execJsb1 na s
  | .jdpl0 na => Sys2Proof.Machine.execJdpl0 na s
  | .jdpln0 na => Sys2Proof.Machine.execJdpln0 na s
  | .jdplf na => Sys2Proof.Machine.execJdplf na s
  | .jdplnf na => Sys2Proof.Machine.execJdplnf na s
  | .jnsiak na => Sys2Proof.Machine.execJnsiak na s
  | .jsiak na => Sys2Proof.Machine.execJsiak na s
  | .jnsoak na => Sys2Proof.Machine.execJnsoak na s
  | .jsoak na => Sys2Proof.Machine.execJsoak na s
  | .jnrqm na => Sys2Proof.Machine.execJnrqm na s
  | .jrqm na => Sys2Proof.Machine.execJrqm na s
  | .ld id dst => Sys2Proof.Machine.execLd id dst s
  | .pselRam => Sys2Proof.Machine.execPselRam s
  | .pselIdb => Sys2Proof.Machine.execPselIdb s
  | .pselM => Sys2Proof.Machine.execPselM s
  | .pselN => Sys2Proof.Machine.execPselN s
  | .aslA => Sys2Proof.Machine.execAslA s
  | .aslB => Sys2Proof.Machine.execAslB s
  | .dplNop => Sys2Proof.Machine.execDplNop s
  | .dplInc => Sys2Proof.Machine.execDplInc s
  | .dplDec => Sys2Proof.Machine.execDplDec s
  | .dplClr => Sys2Proof.Machine.execDplClr s
  | .dphm m => Sys2Proof.Machine.execDphm m s
  | .rpNop => Sys2Proof.Machine.execRpNop s
  | .rpDec => Sys2Proof.Machine.execRpDec s
  | .srcNon => Sys2Proof.Machine.execSrcNon s
  | .srcA => Sys2Proof.Machine.execSrcA s
  | .srcB => Sys2Proof.Machine.execSrcB s
  | .srcTr => Sys2Proof.Machine.execSrcTr s
  | .srcDp => Sys2Proof.Machine.execSrcDp s
  | .srcRp => Sys2Proof.Machine.execSrcRp s
  | .srcRo => Sys2Proof.Machine.execSrcRo s
  | .srcSgn => Sys2Proof.Machine.execSrcSgn s
  | .srcDr => Sys2Proof.Machine.execSrcDr s
  | .srcDrnf => Sys2Proof.Machine.execSrcDrnf s
  | .srcSr => Sys2Proof.Machine.execSrcSr s
  | .srcSim => Sys2Proof.Machine.execSrcSim s
  | .srcSil => Sys2Proof.Machine.execSrcSil s
  | .srcK => Sys2Proof.Machine.execSrcK s
  | .srcL => Sys2Proof.Machine.execSrcL s
  | .srcMem => Sys2Proof.Machine.execSrcMem s
  | .dstNon => Sys2Proof.Machine.execDstNon s
  | .dstA => Sys2Proof.Machine.execDstA s
  | .dstB => Sys2Proof.Machine.execDstB s
  | .dstTr => Sys2Proof.Machine.execDstTr s
  | .dstDp => Sys2Proof.Machine.execDstDp s
  | .dstRp => Sys2Proof.Machine.execDstRp s
  | .dstDr => Sys2Proof.Machine.execDstDr s
  | .dstSr => Sys2Proof.Machine.execDstSr s
  | .dstSol => Sys2Proof.Machine.execDstSol s
  | .dstSom => Sys2Proof.Machine.execDstSom s
  | .dstK => Sys2Proof.Machine.execDstK s
  | .dstKlr => Sys2Proof.Machine.execDstKlr s
  | .dstKlm => Sys2Proof.Machine.execDstKlm s
  | .dstL => Sys2Proof.Machine.execDstL s
  | .dstTrb => Sys2Proof.Machine.execDstTrb s
  | .dstMem => Sys2Proof.Machine.execDstMem s

end Sys2Proof.Machine
end

