-- ==== Sys2Proof/Machine/Step.lean ====
section
/-! DEFINITION. One step of the machine (70_reset_and_hazards.md R376): the next move of the schedule, or a core
step when none is left (log 13). -/

namespace Sys2Proof.Machine

/-- The fault of a word that is no instruction (R311). -/
def decodeFault : DecodeError → Fault
  | .reservedBranch => .reservedEncoding
  | .unusedBits => .reservedEncoding
  | .forbiddenTransfer => .forbiddenTransfer

/-- A core step: the interrupt if one is pending (R303, R304), else fetch, decode and execute (R376). -/
def coreStep (s : State) : Host.Outcome State Fault Refusal :=
  if s.intPending then .next s.takeInterrupt
  else
    match decode s.fetch with
    | .ok i => exec i s
    | .error e => .fault (decodeFault e)

/-- The step of the agent a move names (R376). -/
def runMove (mv : Move) (s : State) : Host.Outcome State Fault Refusal :=
  match mv with
  | .core => coreStep s
  | .host pins data => s.hostCycle pins data
  | .sckRise sien bit => .next (s.sckRise sien bit)
  | .sckFall soen => .next (s.sckFall soen)
  | .soLoad => .next s.soLoad
  | .intPin level => .next (s.intPin level)
  | .reset => .next s.pinReset

/-- One step: the agent the schedule names moves, the core when it names none (R376; log 13). -/
def step (s : State) : Host.Outcome State Fault Refusal :=
  match s.schedule with
  | [] => coreStep s
  | mv :: rest => runMove mv { s with schedule := rest }

/-- The state with a word of the opcode table where the next step fetches it: in the instruction ROM at PC, with no
interrupt pending and no other agent to move first (log 14). -/
def State.withFetchWord (s : State) (nbits w : Nat) : State :=
  { s with
    irom := s.irom.loadInstr s.pc (tableWord nbits w)
    intPending := false
    schedule := [] }

end Sys2Proof.Machine
end

