-- ==== Sys2Proof/Safety.lean ====
section
/-! DEFINITION. What a legal state and a safe step are, in the terms the statements use. -/

namespace Sys2Proof.Machine

/-- The three memories are in canonical form. -/
abbrev State.MemoryLegal (s : State) : Prop :=
  s.ram.wf .ram ∧ s.irom.wf .irom ∧ s.drom.wf .drom

/-- At most four return addresses (R23). -/
abbrev State.StackLegal (s : State) : Prop := s.stack.length ≤ 4

/-- The places of SR that hold no bit hold nothing (R42, D18), and "When DRC bit is '1', DRS bit is always '0'" (R326). -/
abbrev State.StatusLegal (s : State) : Prop :=
  s.srValue = s.sr ∧ (s.srBit srDRC = true → s.srBit srDRS = false)

/-- `(M, N) = mul(K, L)` at an instruction boundary (R33). -/
abbrev State.ProductLegal (s : State) : Prop := s.m = productM s.k s.l ∧ s.n = productN s.k s.l

/-- The input side has taken 0 to 15 bits of a word (R47), and a mixed word is one in progress (log 10). -/
abbrev State.SerialInLegal (s : State) : Prop := s.siCount ≤ 15 ∧ (s.siMixed = true → s.siCount ≠ 0)

/-- A word is being sent exactly when it is announced by SORQ or about to be (R47, R348 to R351). -/
abbrev State.SerialOutLegal (s : State) : Prop :=
  s.soCount ≤ 16 ∧ (s.soLoaded = true → s.sorq = false) ∧ ((s.sorq || s.soLoaded) = (s.soCount != 0))

/-- A pending request has cleared EI (R302), and an edge is latched only where the parameter says so (R308). -/
abbrev State.InterruptLegal (s : State) : Prop :=
  (s.intPending = true → s.srBit srEI = false) ∧
    (s.intLatched = true → Config.intEdgeWhileDisabled = .latched)

/-- The invariant of the machine: true at reset and kept by every step. -/
abbrev State.Inv (s : State) : Prop :=
  s.MemoryLegal ∧ s.StackLegal ∧ s.StatusLegal ∧ s.ProductLegal ∧ s.SerialInLegal ∧ s.SerialOutLegal ∧
    s.InterruptLegal

/-- A step that does not leave the spec (R311). -/
def State.stepsSafely (s : State) : Prop := ∃ t, step s = .next t

/-- The word at PC stands for instruction `i`. -/
abbrev State.fetches (s : State) (i : Instr) : Prop := decode s.fetch = .ok i

/-- Nothing but the core is about to move (log 13). -/
abbrev State.coreMoves (s : State) : Prop := s.schedule = [] ∧ s.intPending = false

/-- The part of the state no instruction ever writes: the ROMs, the hidden state of the serial sides, the pins'
memory and the moves to come (R22, R26, R52, R227). -/
structure Outside where
  irom     : Memory
  drom     : Memory
  si       : Word
  siShift  : Word
  siCount  : Nat
  soShift  : Word
  soCount  : Nat
  soLoaded : Bool
  sorq     : Bool
  soPin    : Option Bool
  hostBus  : Option Byte
  intPrev  : Bool
  schedule : List Move
  deriving DecidableEq, Repr

/-- The part of a state no instruction writes. -/
def State.outside (s : State) : Outside :=
  { irom := s.irom, drom := s.drom, si := s.si, siShift := s.siShift, siCount := s.siCount, soShift := s.soShift,
    soCount := s.soCount, soLoaded := s.soLoaded, sorq := s.sorq, soPin := s.soPin, hostBus := s.hostBus,
    intPrev := s.intPrev, schedule := s.schedule }

/-! ### The words the statements are written in -/

/-- The OP row of an ALU operation. -/
def opInstr (op : AluOp) (f : OpFields) : Instr :=
  match op with
  | .nop => .opNop f
  | .or => .opOr f
  | .and => .opAnd f
  | .xor => .opXor f
  | .sub => .opSub f
  | .add => .opAdd f
  | .sbb => .opSbb f
  | .adc => .opAdc f
  | .dec => .opDec f
  | .inc => .opInc f
  | .cmp => .opCmp f
  | .shr1 => .opShr1 f
  | .shl1 => .opShl1 f
  | .shl2 => .opShl2 f
  | .shl4 => .opShl4 f
  | .xchg => .opXchg f

/-- The RT row of an ALU operation. -/
def rtInstr (op : AluOp) (f : OpFields) : Instr :=
  match op with
  | .nop => .rtNop f
  | .or => .rtOr f
  | .and => .rtAnd f
  | .xor => .rtXor f
  | .sub => .rtSub f
  | .add => .rtAdd f
  | .sbb => .rtSbb f
  | .adc => .rtAdc f
  | .dec => .rtDec f
  | .inc => .rtInc f
  | .cmp => .rtCmp f
  | .shr1 => .rtShr1 f
  | .shl1 => .rtShl1 f
  | .shl2 => .rtShl2 f
  | .shl4 => .rtShl4 f
  | .xchg => .rtXchg f

/-- A destination through SO, which needs SO ACK = 0 (R218, D24). -/
abbrev Dst.serial (d : Dst) : Prop := d = .sol ∨ d = .som

/-- No forbidden pair (R226), and SO free if the transfer goes there (R218). -/
abbrev State.ready (s : State) (f : OpFields) : Prop :=
  forbidden f.src f.dst = false ∧ (Dst.serial f.dst → s.soAck = false)

/-- The destination code of an accumulator (R114). -/
def accDst : Acc → Dst
  | .a => .a
  | .b => .b

/-- The SRC field, of the forms that have one. -/
def srcOf : Form → Option Src
  | .op _ f => some f.src
  | .rt _ f => some f.src
  | .jp _ _ => none
  | .ld _ _ => none

/-- The DST field, of the forms that have one. -/
def dstOf : Form → Option Dst
  | .op _ f => some f.dst
  | .rt _ f => some f.dst
  | .jp _ _ => none
  | .ld _ dst => some dst

/-- The spec gives the instruction an effect here: none of the model faults of R311 applies. -/
def executable (i : Instr) (s : State) : Prop :=
  i.form.allowed = true ∧
    (i.form.isReturn = true → s.stack ≠ []) ∧
    ((dstOf i.form = some .sol ∨ dstOf i.form = some .som) → s.soAck = false)

/-- The six flags after an arithmetic operation with result `r`, carry or borrow `c` and overflow `v`, in the words of
Table 3-2 (R141 to R146). -/
abbrev arithFlagsAre (old new : Flags) (r : Word) (c v : Bool) : Prop :=
  new.s0 = r.getLsbD 15 ∧ (new.z = true ↔ r = 0) ∧ new.c = c ∧ new.ov0 = v ∧
    (old.ov1 = false → new.s1 = r.getLsbD 15) ∧ (old.ov1 = true → new.s1 = old.s1) ∧
    (v = false → new.ov1 = old.ov1) ∧ (v = true → old.ov1 = false → new.ov1 = true) ∧
    (v = true → old.ov1 = true → (new.ov1 = true ↔ r.getLsbD 15 = old.s1))

/-- The five defined flags after a logic or shift operation with result `r` (R147); S1 is left open (U1). -/
abbrev logicFlagsAre (new : Flags) (r : Word) (c : Bool) : Prop :=
  new.s0 = r.getLsbD 15 ∧ (new.z = true ↔ r = 0) ∧ new.c = c ∧ new.ov0 = false ∧ new.ov1 = false

/-- Instruction `i`, with fields `f`, completes in `s`, its ALU result is `r` unless the transfer takes the accumulator
(R133), the selected flags are as said (where the transfer takes the accumulator they are left to D6, log 20), and the
other flag register keeps its state (Table 3-3). -/
abbrev aluCompletes (i : Instr) (f : OpFields) (s : State) (r : Word) (flagsAre : Flags → Prop) : Prop :=
  ∃ t, exec i s = .next t ∧ t.pc = s.pc + 1 ∧
    t.acc f.asl = (if f.dst = accDst f.asl then s.readSrc f.src else r) ∧
    (f.dst ≠ accDst f.asl → flagsAre (t.flag f.asl)) ∧ t.flag (other f.asl) = s.flag (other f.asl)

/-- The eleven places of SR_LAYOUT (R42). -/
def srPlaces : List Nat := [srRQM, srUF1, srUF0, srDRS, srDMA, srDRC, srSOC, srSIC, srEI, srP1, srP0]

/-- `t` is as the write of `v` to SR in `s` leaves SR and what depends on it (R217, R308, R346), `asks` saying whether the
same instruction sets RQM: bit by bit SR receives `v`, but for RQM and DRS, an EI that a latched edge takes up, and the
places of no bit. -/
abbrev srWriteIs (s : State) (v : Word) (asks : Bool) (t : State) : Prop :=
  (∀ j, j < 16 → t.srBit j =
    if j = srRQM then s.srBit srRQM || asks
    else if j = srDRS then s.srBit srDRS && !v.getLsbD srDRC
    else if j = srEI then v.getLsbD srEI && !s.intLatched
    else v.getLsbD j && decide (j ∈ srPlaces)) ∧
  t.intPending = (s.intPending || (v.getLsbD srEI && s.intLatched)) ∧
  t.intLatched = (s.intLatched && !v.getLsbD srEI) ∧
  t.siMixed = (s.siMixed || (s.siCount != 0 && v.getLsbD srSIC != s.srBit srSIC))

/-- The core is about to move: nothing is scheduled, or a core move with `rest` after it. -/
abbrev State.coreNext (s : State) (rest : List Move) : Prop :=
  (s.schedule = [] ∧ rest = []) ∨ s.schedule = .core :: rest

/-- The state after `n` steps, if none of them stops. -/
def runFor : Nat → State → Option State
  | 0, s => some s
  | n + 1, s =>
    match step s with
    | .next t => runFor n t
    | .fault _ => none
    | .refused _ => none

/-- The host writes DR: CS = 0, A0 = 0, DACK = 1, WR = 0, RD = 1 (Table 3-6). -/
def hostWritePins : BusPins := { cs := false, a0 := false, dack := true, wr := false, rd := true }

/-- The host reads DR: CS = 0, A0 = 0, DACK = 1, WR = 1, RD = 0 (Table 3-6). -/
def hostReadPins : BusPins := { cs := false, a0 := false, dack := true, wr := true, rd := false }

/-- The host reads the upper byte of SR: CS = 0, A0 = 1, DACK = 1, WR = 1, RD = 0 (Table 3-6). -/
def hostStatusPins : BusPins := { cs := false, a0 := true, dack := true, wr := true, rd := false }

/-- A DMA write of DR: DACK = 0, WR = 0, RD = 1, CS and A0 at any level (Table 3-6). -/
def dmaWritePins (cs a0 : Bool) : BusPins := { cs := cs, a0 := a0, dack := false, wr := false, rd := true }

/-- A DMA read of DR: DACK = 0, WR = 1, RD = 0, CS and A0 at any level (Table 3-6). -/
def dmaReadPins (cs a0 : Bool) : BusPins := { cs := cs, a0 := a0, dack := false, wr := true, rd := false }

end Sys2Proof.Machine
end

