-- ==== Sys2Proof/Certificates/Slice0/Obligations.lean ====
section
/-! DEFINITION. The statements about the machine, for the provers. Each docstring names the rules it formalises; where
a statement rests on a decision of the spec (D<n>) or on a choice of the model, the docstring says so with the log. -/

open Sys2Proof Sys2Proof.Machine

/-! ### Encoding -/

/-- R102 to R105, R121: under every value of TYPE_CODES, JP_NA_POS and LD_ID_POS that R8 admits, the word of a well-formed
instruction decodes to it; the model's default (log 5) is one of those values. Which row names an OP NOP word with one
field written is the model's choice (log 18). -/
def Obligations.DecodeEncode : Prop :=
  Config.encoding.legal ∧
    ∀ (e : Encoding) (i : Instr), e.legal → i.wf = true → decodeWith e (encodeWith e i) = .ok i

/-- R121: under every value of TYPE_CODES, JP_NA_POS and LD_ID_POS that R8 admits, a word that decodes is the word of the
instruction it decodes to, which is well formed (log 18). -/
def Obligations.EncodeDecode : Prop :=
  ∀ (e : Encoding) (w : InstrWord) (i : Instr), e.legal → decodeWith e w = .ok i → encodeWith e i = w ∧ i.wf = true

/-- R116, R117, R118 (decisions D16, D3, D17 of the spec; log 15): exactly which words are refused, and why, under every
value of TYPE_CODES, JP_NA_POS and LD_ID_POS that R8 admits. The unused bits are those of D12 to D0 of JP outside NA and
those of D21 to D4 of LD outside ID. -/
def Obligations.RefusedWords : Prop :=
  ∀ (e : Encoding) (w : InstrWord), e.legal →
    let type := w.extractLsb' 22 2
    let unusedNa := ∃ j, j < 13 ∧ (j < e.jpNaPos ∨ e.jpNaPos + 11 ≤ j) ∧ w.getLsbD j = true
    let unusedId := ∃ j, 4 ≤ j ∧ j < 22 ∧ (j < e.ldIdPos ∨ e.ldIdPos + 16 ≤ j) ∧ w.getLsbD j = true
    (decodeWith e w = .error .forbiddenTransfer ↔
      (type = e.typeOp ∨ type = e.typeRt) ∧
        ((w.extractLsb' 4 4).toNat, (w.extractLsb' 0 4).toNat) ∈
          [(13, 11), (14, 11), (13, 12), (14, 12), (15, 15)]) ∧
    (decodeWith e w = .error .unusedBits ↔ (type = e.typeJp ∧ unusedNa) ∨ (type = e.typeLd ∧ unusedId)) ∧
    (decodeWith e w = .error .reservedBranch ↔
      type = e.typeJp ∧ ¬ unusedNa ∧
        (w.extractLsb' 13 9).toNat ∉
          [0x100, 0x140, 0x080, 0x082, 0x084, 0x086, 0x088, 0x08A, 0x08C, 0x08E, 0x090, 0x092, 0x094, 0x096, 0x098,
           0x09A, 0x09C, 0x09E, 0x0A0, 0x0A2, 0x0A4, 0x0A6, 0x0A8, 0x0AA, 0x0AC, 0x0AE, 0x0B0, 0x0B1, 0x0B2, 0x0B3,
           0x0B4, 0x0B6, 0x0B8, 0x0BA, 0x0BC, 0x0BE])

/-- R121 on words written out from R102 to R115 (95_test_vectors.md 2.1 and 2.5), under the default type codes and places
(log 5). That 002000H is named by the DPINC row is the model's choice (log 18); that the last four are refused is the
spec's decision (D3, D16, D17; log 15). -/
def Obligations.WordsDecode : Prop :=
  decode 0x000000 = .ok (.opNop OpFields.zero) ∧
  decode 0x400000 = .ok (.rtNop OpFields.zero) ∧
  decode 0x15A314 = .ok (.opAdd
    { psel := .idb, asl := .b, dpl := .inc, dphm := 1, rpdcr := .dec, src := .a, dst := .dp }) ∧
  decode 0x4A201F = .ok (.rtCmp { dpl := .inc, src := .a, dst := .mem }) ∧
  decode 0x2500FC = .ok (.opAdd { psel := .m, src := .mem, dst := .klm }) ∧
  decode 0x002000 = .ok .dplInc ∧
  decode 0xA0048C = .ok (.jmp 0x123) ∧
  decode 0xA80000 = .ok (.call 0) ∧
  decode 0x96248C = .ok (.jdpln0 0x123) ∧
  decode 0x97C48C = .ok (.jrqm 0x123) ∧
  decode 0xC48D01 = .ok (.ld 0x1234 .a) ∧
  decode 0xFFFFCF = .ok (.ld 0xFFFF .mem) ∧
  decode 0x7FFFFF = .error .forbiddenTransfer ∧
  decode 0xA02000 = .error .reservedBranch ∧
  decode 0xA00001 = .error .unusedBits ∧
  decode 0xFFFFFF = .error .unusedBits

/-! ### The step -/

/-- R71, R376: with the core to move and no interrupt pending, a step is the execution of the instruction the word at
PC decodes to. The schedule that says who moves is the model's (log 13). -/
def Obligations.StepRunsDecoded : Prop :=
  ∀ (s : State) (i : Instr) (rest : List Move),
    s.coreNext rest → s.intPending = false → s.fetches i → step s = exec i { s with schedule := rest }

/-- R311 (D3, D16, D17; log 15): with the core to move and no interrupt pending, a word that stands for no instruction
faults. -/
def Obligations.StepFaultsRefusedWord : Prop :=
  ∀ (s : State) (e : DecodeError) (rest : List Move),
    s.coreNext rest → s.intPending = false → decode s.fetch = .error e →
      step s = .fault (if e = .forbiddenTransfer then .forbiddenTransfer else .reservedEncoding)

/-- R71: a word loaded at PC is the word fetched there, and every other instruction word stands (log 14: how a program is
loaded; log 4: the bytes of a word). -/
def Obligations.LoadedWordIsFetched : Prop :=
  ∀ (s : State) (w : InstrWord), s.irom.wf .irom →
    (State.fetch { s with irom := s.irom.loadInstr s.pc w }) = w ∧
    ∀ i : CodeAddr, i ≠ s.pc → State.iromAt { s with irom := s.irom.loadInstr s.pc w } i = s.iromAt i

/-- The headline invariant: memories in canonical form, a stack of at most four (R23), DRS = 0 when DRC = 1 (R326), bits 6
to 2 of SR empty (D18; log 6), `(M, N) = mul(K, L)` (R33), the serial counts in range (R47), SORQ exactly while a word is
being sent (R349, R351), and EI = 0 while a request is pending (R302), are kept by every step of every agent. -/
def Obligations.InvariantKept : Prop :=
  ∀ s t : State, s.Inv → step s = .next t → t.Inv

/-- The invariant holds after reset (logs 1, 7). -/
def Obligations.InvariantAtReset : Prop := State.reset.Inv

/-- R51: what the source says of the state after reset: PC, SR, both flag registers, the ACK flags, the pins. -/
def Obligations.ResetValues : Prop :=
  State.reset.pc = 0x000 ∧ State.reset.sr = 0x0000 ∧
    State.reset.flagA = ⟨false, false, false, false, false, false⟩ ∧
    State.reset.flagB = ⟨false, false, false, false, false, false⟩ ∧
    State.reset.siAck = false ∧ State.reset.soAck = false ∧
    State.reset.drq = false ∧ State.reset.pinP0 = false ∧ State.reset.pinP1 = false ∧ State.reset.sorq = false ∧
    State.reset.soPin = none ∧ State.reset.sgn = 0x8000

/-- Every instruction has a meaning: no step is refused, in any state. -/
def Obligations.NeverRefused : Prop :=
  ∀ (s : State) (r : Refusal), step s ≠ .refused r

/-- R310, R311 (D7, D17, D24; log 15): an instruction completes exactly where the spec gives it an effect: no forbidden
pair, a return address for RT, SO ACK = 0 for a write of SO. All 114 constructors. -/
def Obligations.ExecCompletes : Prop :=
  ∀ (i : Instr) (s : State), executable i s ↔ ∃ t, exec i s = .next t

/-- R311 with its order (D7, D17, D24; log 15): which fault an instruction stops with. -/
def Obligations.ExecFaults : Prop :=
  ∀ (i : Instr) (s : State),
    (exec i s = .fault .forbiddenTransfer ↔ i.form.allowed = false) ∧
    (exec i s = .fault .stackUnderflow ↔
      i.form.allowed = true ∧ i.form.isReturn = true ∧ s.stack = []) ∧
    (exec i s = .fault .serialOutputOverrun ↔
      i.form.allowed = true ∧ (i.form.isReturn = true → s.stack ≠ []) ∧
        (dstOf i.form = some .sol ∨ dstOf i.form = some .som) ∧ s.soAck = true) ∧
    exec i s ≠ .fault .reservedEncoding ∧ exec i s ≠ .fault .inhibitedHostAccess

/-- R22, R26, R52, R227: no instruction writes the ROMs, SI, the serial shift registers and their counts, SORQ, the SO
pin, the byte last put on D0 to D7, the level of INT, or the moves to come. -/
def Obligations.OutsideKept : Prop :=
  ∀ (i : Instr) (s t : State), exec i s = .next t → t.outside = s.outside

/-- R32, for the M and N every instruction leaves: twice the signed product of the K and L it leaves, over 32 bits, but for
8000H times 8000H, which gives 80000000H; bit 0 of N is 0. -/
def Obligations.ProductOfInputs : Prop :=
  ∀ (i : Instr) (s t : State), exec i s = .next t →
    (t.m ++ t.n : BitVec 32).toInt =
      (if t.k = 0x8000 ∧ t.l = 0x8000 then -2147483648 else 2 * (t.k.toInt * t.l.toInt)) ∧
    (t.k = 0x8000 ∧ t.l = 0x8000 → t.m = 0x8000 ∧ t.n = 0x0000) ∧
    t.n.getLsbD 0 = false

/-! ### The ALU -/

/-- R149: OP NOP leaves both flag registers and, unless the transfer writes it, the accumulator. -/
def Obligations.NopKeepsFlags : Prop :=
  ∀ (s : State) (f : OpFields), s.ready f →
    ∃ t, exec (.opNop f) s = .next t ∧ t.flagA = s.flagA ∧ t.flagB = s.flagB ∧
      (f.dst ≠ .a → t.a = s.a) ∧ (f.dst ≠ .b → t.b = s.b)

/-- R150, R151, R152, R159: OR, AND, XOR on the accumulator and the P input, CMP on the accumulator alone; S0 and Z from
the result, C, OV1 and OV0 cleared. -/
def Obligations.LogicResults : Prop :=
  ∀ (s : State) (f : OpFields), s.ready f →
    let q := s.acc f.asl
    let p := s.pInput f.psel (s.readSrc f.src)
    aluCompletes (.opOr f) f s (q ||| p) (logicFlagsAre · (q ||| p) false) ∧
    aluCompletes (.opAnd f) f s (q &&& p) (logicFlagsAre · (q &&& p) false) ∧
    aluCompletes (.opXor f) f s (q ^^^ p) (logicFlagsAre · (q ^^^ p) false) ∧
    aluCompletes (.opCmp f) f s (0xFFFF - q) (logicFlagsAre · (0xFFFF - q) false)

/-- R161 to R164: SHR1 is the arithmetic shift with bit 0 into C; SHL1 takes the carry not selected in and puts bit 15 into
C; SHL2 and SHL4 fill with ones and clear C. -/
def Obligations.ShiftResults : Prop :=
  ∀ (s : State) (f : OpFields), s.ready f →
    let q := s.acc f.asl
    let ci : Word := if (s.flag (other f.asl)).c then 1 else 0
    aluCompletes (.opShr1 f) f s (q.sshiftRight 1) (logicFlagsAre · (q.sshiftRight 1) (q.getLsbD 0)) ∧
    aluCompletes (.opShl1 f) f s (q + q + ci) (logicFlagsAre · (q + q + ci) (q.getLsbD 15)) ∧
    aluCompletes (.opShl2 f) f s (4 * q + 3) (logicFlagsAre · (4 * q + 3) false) ∧
    aluCompletes (.opShl4 f) f s (16 * q + 15) (logicFlagsAre · (16 * q + 15) false)

/-- R165 (D26: that the two bytes trade places is the spec's reading of a name; log 19): XCHG. -/
def Obligations.ExchangeResult : Prop :=
  ∀ (s : State) (f : OpFields), s.ready f →
    let q := s.acc f.asl
    let r := BitVec.ofNat 16 (q.toNat % 256 * 256 + q.toNat / 256)
    aluCompletes (.opXchg f) f s r (logicFlagsAre · r false)

/-- R154, R156, R158 with R143 to R148: ADD, ADC, INC modulo 65536; C the unsigned carry, OV0 the signed overflow, all six
flags. The S1 and OV1 functions are the spec's decision D5 (log 21). -/
def Obligations.AddResults : Prop :=
  ∀ (s : State) (f : OpFields), s.ready f →
    let q := s.acc f.asl
    let p := s.pInput f.psel (s.readSrc f.src)
    let old := s.flag f.asl
    let ci : Nat := if (s.flag (other f.asl)).c then 1 else 0
    aluCompletes (.opAdd f) f s (q + p)
      (arithFlagsAre old · (q + p) (decide (65535 < q.toNat + p.toNat))
        (decide (q.toInt + p.toInt < -32768 ∨ 32767 < q.toInt + p.toInt))) ∧
    aluCompletes (.opAdc f) f s (q + p + BitVec.ofNat 16 ci)
      (arithFlagsAre old · (q + p + BitVec.ofNat 16 ci) (decide (65535 < q.toNat + p.toNat + ci))
        (decide (q.toInt + p.toInt + ci < -32768 ∨ 32767 < q.toInt + p.toInt + ci))) ∧
    aluCompletes (.opInc f) f s (q + 1)
      (arithFlagsAre old · (q + 1) (decide (q = 0xFFFF)) (decide (q = 0x7FFF)))

/-- R153, R155, R157 with R143 to R148: SUB, SBB, DEC modulo 65536; C the unsigned borrow (D27, log 25), OV0 the signed
overflow, all six flags (D5, log 21). -/
def Obligations.SubResults : Prop :=
  ∀ (s : State) (f : OpFields), s.ready f →
    let q := s.acc f.asl
    let p := s.pInput f.psel (s.readSrc f.src)
    let old := s.flag f.asl
    let ci : Nat := if (s.flag (other f.asl)).c then 1 else 0
    aluCompletes (.opSub f) f s (q - p)
      (arithFlagsAre old · (q - p) (decide (q.toNat < p.toNat))
        (decide (q.toInt - p.toInt < -32768 ∨ 32767 < q.toInt - p.toInt))) ∧
    aluCompletes (.opSbb f) f s (q - p - BitVec.ofNat 16 ci)
      (arithFlagsAre old · (q - p - BitVec.ofNat 16 ci) (decide (q.toNat < p.toNat + ci))
        (decide (q.toInt - p.toInt - ci < -32768 ∨ 32767 < q.toInt - p.toInt - ci))) ∧
    aluCompletes (.opDec f) f s (q - 1)
      (arithFlagsAre old · (q - 1) (decide (q = 0x0000)) (decide (q = 0x8000)))

/-- R144, the second form: an addition overflows exactly when its operands have one sign and the result another, a
subtraction when the operands differ and the result leaves the sign of the minuend, a carry or borrow input
included (p = 0 for INC and DEC). -/
def Obligations.OverflowBySigns : Prop :=
  ∀ (s : State) (f : OpFields) (op : AluOp), s.ready f → f.dst ≠ accDst f.asl →
    ∃ t, exec (opInstr op f) s = .next t ∧
      let q := (s.acc f.asl).msb
      let p := (s.pInput f.psel (s.readSrc f.src)).msb
      let r := (t.acc f.asl).msb
      (op = .add ∨ op = .adc → (t.flag f.asl).ov0 = (q == p && r != q)) ∧
      (op = .sub ∨ op = .sbb → (t.flag f.asl).ov0 = (q != p && r != q)) ∧
      (op = .inc → (t.flag f.asl).ov0 = (!q && r)) ∧
      (op = .dec → (t.flag f.asl).ov0 = (q && !r))

/-- R145, R147, U1 (log 8): the nine operations whose S1 is undefined draw it as the next free value, and use that value up;
the others draw none. That S1 is drawn where the transfer takes the selected accumulator too is D6 (log 20). The
statement holds whatever the free values are. -/
def Obligations.SignFreeAfterLogic : Prop :=
  ∀ (s : State) (f : OpFields) (op : AluOp), s.ready f →
    ∃ t, exec (opInstr op f) s = .next t ∧
      (op ∈ [AluOp.or, .and, .xor, .cmp, .shr1, .shl1, .shl2, .shl4, .xchg] →
        (t.flag f.asl).s1 = Config.freeBit s.freeIndex ∧ t.freeIndex = s.freeIndex + 1) ∧
      (op ∈ [AluOp.nop, .sub, .add, .sbb, .adc, .dec, .inc] → t.freeIndex = s.freeIndex)

/-- R132: the P input: the RAM word at DP, the bus, the product registers, seen through ADD to an accumulator the transfer
leaves alone; and the field has no effect on the nine other operations. That RAM is read before a write to it beside
(@MEM) is D13 (R90; log 24); that M and N are those before the instruction where it writes K or L is D21 (R33; log 23). -/
def Obligations.PSelectInputs : Prop :=
  ∀ (s : State) (f : OpFields), s.ready f →
    (f.dst ≠ accDst f.asl →
      ∃ t, exec (.opAdd f) s = .next t ∧
        (f.psel = .ram → t.acc f.asl = s.acc f.asl + s.ramAt s.dp) ∧
        (f.psel = .idb → t.acc f.asl = s.acc f.asl + s.readSrc f.src) ∧
        (f.psel = .m → t.acc f.asl = s.acc f.asl + s.m) ∧
        (f.psel = .n → t.acc f.asl = s.acc f.asl + s.n)) ∧
    ∀ op ∈ [AluOp.nop, .dec, .inc, .cmp, .shr1, .shl1, .shl2, .shl4, .xchg], ∀ psel : PSel,
      ∃ t, exec (opInstr op f) s = .next t ∧ exec (opInstr op { f with psel := psel }) s = .next t

/-- D6 (log 20), which R133 leaves open: where the transfer takes the accumulator the ALU selects, the flags are those of the
ALU result all the same, as if nothing were transferred. -/
def Obligations.FlagsWhenTransferWins : Prop :=
  ∀ (op : AluOp) (s : State) (f : OpFields), s.ready f →
    ∃ t u, exec (opInstr op f) s = .next t ∧ exec (opInstr op { f with dst := .non }) s = .next u ∧
      t.flagA = u.flagA ∧ t.flagB = u.flagB

/-! ### The frame of OP -/

/-- R130, R227, R37: what each of the sixteen OP instructions leaves alone, field by field: every register that is not the
destination, not the selected accumulator and not a pointer its field steps; M and N are the product again, which is D21
(R33; log 23). -/
def Obligations.OpFrame : Prop :=
  ∀ (op : AluOp) (f : OpFields) (s : State), s.ready f →
    ∃ t, exec (opInstr op f) s = .next t ∧
      t.pc = s.pc + 1 ∧ t.stack = s.stack ∧ t.outside = s.outside ∧
      (f.dst ≠ .a → op = .nop ∨ f.asl = .b → t.a = s.a) ∧ (f.dst ≠ .b → op = .nop ∨ f.asl = .a → t.b = s.b) ∧
      (op = .nop ∨ f.asl = .b → t.flagA = s.flagA) ∧ (op = .nop ∨ f.asl = .a → t.flagB = s.flagB) ∧
      (f.dst ≠ .tr → t.tr = s.tr) ∧ (f.dst ≠ .trb → t.trb = s.trb) ∧
      (f.dst ≠ .dp → f.dpl = .nop → f.dphm = 0 → t.dp = s.dp) ∧ (f.dst ≠ .rp → f.rpdcr = .nop → t.rp = s.rp) ∧
      (f.dst ∉ [Dst.k, .klr, .klm] → t.k = s.k) ∧ (f.dst ∉ [Dst.l, .klr, .klm] → t.l = s.l) ∧
      t.m = productM t.k t.l ∧ t.n = productN t.k t.l ∧
      (f.dst ≠ .dr → t.dr = s.dr) ∧ (f.dst ∉ [Dst.sol, .som] → t.so = s.so ∧ t.soAck = s.soAck) ∧
      (f.src ∉ [Src.sim, .sil] → t.siAck = s.siAck) ∧ (f.src ≠ .dr → f.dst ≠ .dr → t.drq = s.drq) ∧
      (f.src ≠ .dr → f.dst ∉ [Dst.dr, .sr] → t.sr = s.sr) ∧
      (f.dst ≠ .sr → t.siMixed = s.siMixed ∧ t.intPending = s.intPending ∧ t.intLatched = s.intLatched)

/-- R73, R225: the only bytes of RAM an OP instruction writes are the two of the word at the DP before it, and only with
DST = @MEM; the ROMs it never writes. -/
def Obligations.OpFrameMemory : Prop :=
  ∀ (op : AluOp) (f : OpFields) (s : State), s.ready f → s.ram.wf .ram →
    ∃ t, exec (opInstr op f) s = .next t ∧ t.irom = s.irom ∧ t.drom = s.drom ∧
      (∀ addr : Nat, (f.dst = .mem → addr ≠ ramByte s.dp ∧ addr ≠ ramByte s.dp + 1) →
        t.ram.read .ram addr = s.ram.read .ram addr) ∧
      (f.dst ≠ .mem → t.ram = s.ram)

/-! ### The transfer -/

/-- R191 to R198, R204 to R206: the bus value of the sources without a side effect, whatever ALU operation runs beside,
seen in TR; and that there is no side effect. That the value is the one before the instruction where the ALU operation
beside changes SA1 (SGN) is D13 (R40, R131; log 24). -/
def Obligations.SourceRegisters : Prop :=
  ∀ (op : AluOp) (f : OpFields) (s : State), f.dst = .tr →
    ∃ t, exec (opInstr op f) s = .next t ∧
      (f.src = .non → t.tr = s.trb) ∧ (f.src = .a → t.tr = s.a) ∧ (f.src = .b → t.tr = s.b) ∧
      (f.src = .tr → t.tr = s.tr) ∧ (f.src = .dp → t.tr.toNat = s.dp.toNat) ∧
      (f.src = .rp → t.tr.toNat = s.rp.toNat) ∧ (f.src = .ro → t.tr = s.dromAt s.rp) ∧
      (f.src = .sgn → t.tr = if s.flagA.s1 = false then 0x8000 else 0x7FFF) ∧
      (f.src = .k → t.tr = s.k) ∧ (f.src = .l → t.tr = s.l) ∧ (f.src = .mem → t.tr = s.ramAt s.dp) ∧
      (f.src ∉ [Src.dr, .sim, .sil] → t.sr = s.sr ∧ t.drq = s.drq ∧ t.siAck = s.siAck)

/-- R199, R200, whatever the destination and the ALU operation beside: SRC = DR puts DR on the bus, sets RQM and, in DMA
mode, DRQ; DRNF puts it there and does neither. SR's bits are named; their places are R42's default (log 6). That the
DMA bit and DR are those before the instruction where it writes SR or DR is D13 (log 24). -/
def Obligations.SourceDR : Prop :=
  ∀ (op : AluOp) (f : OpFields) (s : State), s.ready f →
    ∃ t, exec (opInstr op f) s = .next t ∧
      (f.src = .dr →
        t.srBit srRQM = true ∧ t.drq = (s.drq || s.srBit srDMA) ∧
          (f.dst ≠ .sr → ∀ j, j < 16 → t.srBit j = (s.srBit j || j == srRQM))) ∧
      (f.src = .drnf →
        (f.dst ∉ [Dst.dr, .sr] → t.sr = s.sr) ∧ (f.dst = .sr → t.srBit srRQM = s.srBit srRQM) ∧
          (f.dst ≠ .dr → t.drq = s.drq)) ∧
      (f.src = .dr ∨ f.src = .drnf →
        t.dr = s.dr ∧ (f.dst = .tr → t.tr = s.dr) ∧ (f.dst = .a → t.a = s.dr) ∧ (f.dst = .b → t.b = s.dr))

/-- R201 (D18; log 6 for SR's places): SR on the bus, the places of no bit reading 0, and SR kept by the read; R202, R203
(D20, D33, log 28): SIM and SIL put SI on it, SIL with the bits reversed, and clear SI ACK whatever the destination and
the ALU operation beside. -/
def Obligations.SourceStatusAndSerial : Prop :=
  ∀ (op : AluOp) (f : OpFields) (s : State), s.ready f →
    ∃ t, exec (opInstr op f) s = .next t ∧
      let seen (v : Nat → Bool) : Prop :=
        (f.dst = .tr → ∀ j, j < 16 → t.tr.getLsbD j = v j) ∧ (f.dst = .a → ∀ j, j < 16 → t.a.getLsbD j = v j) ∧
          (f.dst = .b → ∀ j, j < 16 → t.b.getLsbD j = v j)
      (f.src = .sr →
        seen (fun j => s.srBit j && decide (j ∈ srPlaces)) ∧ (f.dst ∉ [Dst.dr, .sr] → t.sr = s.sr) ∧
          t.siAck = s.siAck) ∧
      (f.src = .sim → seen (fun j => s.si.getLsbD j) ∧ t.siAck = false ∧ t.si = s.si) ∧
      (f.src = .sil → seen (fun j => s.si.getLsbD (15 - j)) ∧ t.siAck = false ∧ t.si = s.si)

/-- R211 to R215, R220 to R224: what the register destinations take from the bus, whatever ALU operation runs beside
(R133); @KLR and @KLM fill the other register from RO or RAM. That the bus, RO and RAM are those before the instruction is
D13 (log 24); that M and N are the product of the new K and L right after it is D21 (R33; log 23). -/
def Obligations.DestinationRegisters : Prop :=
  ∀ (op : AluOp) (f : OpFields) (s : State), s.ready f →
    ∃ t, exec (opInstr op f) s = .next t ∧
      (f.dst = .a → t.a = s.readSrc f.src) ∧ (f.dst = .b → t.b = s.readSrc f.src) ∧
      (f.dst = .tr → t.tr = s.readSrc f.src) ∧
      (f.dst = .dp → t.dp.toNat = (s.readSrc f.src).toNat % 256) ∧
      (f.dst = .rp → t.rp.toNat = (s.readSrc f.src).toNat % 1024) ∧
      (f.dst = .k → t.k = s.readSrc f.src ∧ t.l = s.l) ∧
      (f.dst = .klr → t.k = s.readSrc f.src ∧ t.l = s.dromAt s.rp) ∧
      (f.dst = .klm → t.l = s.readSrc f.src ∧ t.k = s.ramAt (s.dp ||| 0x40)) ∧
      (f.dst = .l → t.l = s.readSrc f.src ∧ t.k = s.k) ∧
      (f.dst = .trb → t.trb = s.readSrc f.src) ∧
      t.m = productM t.k t.l ∧ t.n = productN t.k t.l

/-- R216: DST = @DR stores all sixteen bits, sets RQM, and sets DRQ in DMA mode; no other bit of SR changes. SR's bits are
named; their places are R42's default (log 6). -/
def Obligations.DestinationDR : Prop :=
  ∀ (op : AluOp) (f : OpFields) (s : State), f.dst = .dr →
    ∃ t, exec (opInstr op f) s = .next t ∧ t.dr = s.readSrc f.src ∧ t.drq = (s.drq || s.srBit srDMA) ∧
      ∀ j, j < 16 → t.srBit j = (s.srBit j || j == srRQM)

/-- R217 (D15, D18; logs 6, 30): DST = @SR writes nine bits, keeps RQM, and clears DRS when DRC is written 1; an edge of
INT latched while EI = 0 is taken up instead of EI (R308, D12; log 12); a change of SIC while a word arrives marks that
word (R346, D15; log 10). -/
def Obligations.DestinationSR : Prop :=
  ∀ (op : AluOp) (f : OpFields) (s : State), f.dst = .sr →
    ∃ t, exec (opInstr op f) s = .next t ∧ srWriteIs s (s.readSrc f.src) (f.src == .dr) t ∧
      t.drq = (s.drq || (f.src == .dr && s.srBit srDMA)) ∧
      t.pinP0 = (s.readSrc f.src).getLsbD srP0 ∧ t.pinP1 = (s.readSrc f.src).getLsbD srP1

/-- R218, R219 (D33, log 28; D24, log 15): @SOM stores the bus, @SOL its bits reversed, both set SO ACK; with SO ACK = 1
either stops. -/
def Obligations.DestinationSO : Prop :=
  ∀ (op : AluOp) (f : OpFields) (s : State), Dst.serial f.dst →
    (s.soAck = false →
      ∃ t, exec (opInstr op f) s = .next t ∧ t.soAck = true ∧
        (f.dst = .som → t.so = s.readSrc f.src) ∧
        (f.dst = .sol → ∀ j, j < 16 → t.so.getLsbD j = (s.readSrc f.src).getLsbD (15 - j))) ∧
    (s.soAck = true → exec (opInstr op f) s = .fault .serialOutputOverrun)

/-- R225: DST = @MEM writes the RAM word at the DP before the instruction, whatever happens to DP in it, and no other; that
P-SELECT = RAM beside it sees the word before the write is D13 (R90; log 24). -/
def Obligations.DestinationMEM : Prop :=
  ∀ (op : AluOp) (f : OpFields) (s : State), f.dst = .mem → f.src ≠ .mem → s.ram.wf .ram →
    ∃ t, exec (opInstr op f) s = .next t ∧ t.ramAt s.dp = s.readSrc f.src ∧
      (∀ j : RamAddr, j ≠ s.dp → t.ramAt j = s.ramAt j) ∧ t.ram.wf .ram ∧
      (op = .or → f.psel = .ram → t.acc f.asl = s.acc f.asl ||| s.ramAt s.dp)

/-! ### The pointers -/

/-- R181 to R186: DP after OP, in every ready state, and the same DP after RT wherever the stack holds a return address: the
transfer takes it whole; else DPH is exclusive-ORed with the mask and DPL steps within its four bits, each from the old
DP. -/
def Obligations.PointerDP : Prop :=
  ∀ (op : AluOp) (f : OpFields) (s : State), s.ready f →
    ∃ t, exec (opInstr op f) s = .next t ∧
      (∀ (ret : CodeAddr) (rest : List CodeAddr), s.stack = ret :: rest →
        ∃ u, exec (rtInstr op f) s = .next u ∧ u.dp = t.dp) ∧
      (f.dst = .dp → t.dp.toNat = (s.readSrc f.src).toNat % 256) ∧
      (f.dst ≠ .dp →
        t.dp.toNat / 16 = (s.dp.toNat / 16) ^^^ f.dphm.toNat ∧
        (f.dpl = .nop → t.dp.toNat % 16 = s.dp.toNat % 16) ∧
        (f.dpl = .inc → t.dp.toNat % 16 = (s.dp.toNat + 1) % 16) ∧
        (f.dpl = .dec → t.dp.toNat % 16 = (s.dp.toNat + 15) % 16) ∧
        (f.dpl = .clr → t.dp.toNat % 16 = 0))

/-- R188 (D9: the wrap at 000H; log 22): RP after OP, in every ready state, and the same RP after RT wherever the stack
holds a return address: the transfer takes it, else RPDEC steps it down modulo 1024. -/
def Obligations.PointerRP : Prop :=
  ∀ (op : AluOp) (f : OpFields) (s : State), s.ready f →
    ∃ t, exec (opInstr op f) s = .next t ∧
      (∀ (ret : CodeAddr) (rest : List CodeAddr), s.stack = ret :: rest →
        ∃ u, exec (rtInstr op f) s = .next u ∧ u.rp = t.rp) ∧
      (f.dst = .rp → t.rp.toNat = (s.readSrc f.src).toNat % 1024) ∧
      (f.dst ≠ .rp → f.rpdcr = .dec → t.rp.toNat = (s.rp.toNat + 1023) % 1024) ∧
      (f.dst ≠ .rp → f.rpdcr = .nop → t.rp = s.rp)

/-! ### Return, jumps, calls -/

/-- R230: each of the sixteen RT instructions does the whole work of its OP instruction and pops PC, and differs from it
in nothing else; so it completes wherever OP does and the stack holds a return address. -/
def Obligations.ReturnDoesOpWork : Prop :=
  ∀ (op : AluOp) (f : OpFields) (s : State) (ret : CodeAddr) (rest : List CodeAddr), s.ready f → s.stack = ret :: rest →
    ∃ t, exec (opInstr op f) s = .next t ∧ exec (rtInstr op f) s = .next { t with pc := ret, stack := rest }

/-- R241, R242, R24: JMP loads PC; CALL pushes the next address, losing the oldest of four, and loads PC; nothing else
changes, but that M and N are the product again (R33). The return address of a CALL at 7FFH is D8 (log 22). -/
def Obligations.JumpAndCall : Prop :=
  ∀ (s : State) (na : CodeAddr), s.StackLegal → s.ProductLegal →
    exec (.jmp na) s = .next { s with pc := na } ∧
    exec (.call na) s =
      .next { s with
        pc := na
        stack := (s.pc + 1) :: (if s.stack.length = 4 then s.stack.take 3 else s.stack) }

/-- R232, R242: after a CALL and the bare RT the core is back at the next address with the stack as it was, if the stack had
a free level; if it was full, the oldest address is gone. -/
def Obligations.CallThenReturn : Prop :=
  ∀ (s : State) (na : CodeAddr), s.StackLegal →
    ∃ t u, exec (.call na) s = .next t ∧ exec (.rtNop OpFields.zero) t = .next u ∧
      u.pc = s.pc + 1 ∧ (s.stack.length < 4 → u.stack = s.stack) ∧ (s.stack.length = 4 → u.stack = s.stack.take 3)

/-- R244, R245, R248, R249, R252, R253, R256, R257, R260, R261, R264, R265: the twelve jumps on FLAG A: PC is NA when the
condition holds, else the next address, and nothing else changes. -/
def Obligations.FlagJumpsA : Prop :=
  ∀ (s : State) (na : CodeAddr), s.ProductLegal →
    let go (taken : Bool) : State := { s with pc := if taken then na else s.pc + 1 }
    exec (.jnca na) s = .next (go (s.flagA.c == false)) ∧ exec (.jca na) s = .next (go (s.flagA.c == true)) ∧
    exec (.jnza na) s = .next (go (s.flagA.z == false)) ∧ exec (.jza na) s = .next (go (s.flagA.z == true)) ∧
    exec (.jnova0 na) s = .next (go (s.flagA.ov0 == false)) ∧ exec (.jova0 na) s = .next (go (s.flagA.ov0 == true)) ∧
    exec (.jnova1 na) s = .next (go (s.flagA.ov1 == false)) ∧ exec (.jova1 na) s = .next (go (s.flagA.ov1 == true)) ∧
    exec (.jnsa0 na) s = .next (go (s.flagA.s0 == false)) ∧ exec (.jsa0 na) s = .next (go (s.flagA.s0 == true)) ∧
    exec (.jnsa1 na) s = .next (go (s.flagA.s1 == false)) ∧ exec (.jsa1 na) s = .next (go (s.flagA.s1 == true))

/-- R246, R247, R250, R251, R254, R255, R258, R259, R262, R263, R266, R267: the twelve jumps on FLAG B. -/
def Obligations.FlagJumpsB : Prop :=
  ∀ (s : State) (na : CodeAddr), s.ProductLegal →
    let go (taken : Bool) : State := { s with pc := if taken then na else s.pc + 1 }
    exec (.jncb na) s = .next (go (s.flagB.c == false)) ∧ exec (.jcb na) s = .next (go (s.flagB.c == true)) ∧
    exec (.jnzb na) s = .next (go (s.flagB.z == false)) ∧ exec (.jzb na) s = .next (go (s.flagB.z == true)) ∧
    exec (.jnovb0 na) s = .next (go (s.flagB.ov0 == false)) ∧ exec (.jovb0 na) s = .next (go (s.flagB.ov0 == true)) ∧
    exec (.jnovb1 na) s = .next (go (s.flagB.ov1 == false)) ∧ exec (.jovb1 na) s = .next (go (s.flagB.ov1 == true)) ∧
    exec (.jnsb0 na) s = .next (go (s.flagB.s0 == false)) ∧ exec (.jsb0 na) s = .next (go (s.flagB.s0 == true)) ∧
    exec (.jnsb1 na) s = .next (go (s.flagB.s1 == false)) ∧ exec (.jsb1 na) s = .next (go (s.flagB.s1 == true))

/-- R268 to R277: the four jumps on DPL and the six on SI ACK, SO ACK and RQM; the flag tested is kept. RQM is named; its
place is R42's default (log 6). -/
def Obligations.PointerAndHandshakeJumps : Prop :=
  ∀ (s : State) (na : CodeAddr), s.ProductLegal →
    let go (taken : Bool) : State := { s with pc := if taken then na else s.pc + 1 }
    exec (.jdpl0 na) s = .next (go (s.dp.toNat % 16 == 0)) ∧ exec (.jdpln0 na) s = .next (go (s.dp.toNat % 16 != 0)) ∧
    exec (.jdplf na) s = .next (go (s.dp.toNat % 16 == 15)) ∧ exec (.jdplnf na) s = .next (go (s.dp.toNat % 16 != 15)) ∧
    exec (.jnsiak na) s = .next (go (s.siAck == false)) ∧ exec (.jsiak na) s = .next (go (s.siAck == true)) ∧
    exec (.jnsoak na) s = .next (go (s.soAck == false)) ∧ exec (.jsoak na) s = .next (go (s.soAck == true)) ∧
    exec (.jnrqm na) s = .next (go (s.srBit srRQM == false)) ∧ exec (.jrqm na) s = .next (go (s.srBit srRQM == true))

/-! ### LD and the field-value rows -/

/-- R290, R291, R293 (D34 for the second register of @KLR and @KLM, log 29): LD writes its destination and no flag; every
register by its value after, every byte of RAM by its value after. DST = @SR is the write of R217 (D15, D18; log 30), with
a latched INT edge (R308, D12; log 12) and a word that arrives (R346; log 10). SR's bits are named, their places are R42's
default (log 6); which byte of a RAM word lies lower is the model's choice (log 4); M and N right after the write of K or
L are D21 (log 23). -/
def Obligations.LdResults : Prop :=
  ∀ (s : State) (id : Word) (dst : Dst), (Dst.serial dst → s.soAck = false) → s.ram.wf .ram →
    ∃ t, exec (.ld id dst) s = .next t ∧
      t.pc = s.pc + 1 ∧ t.stack = s.stack ∧ t.flagA = s.flagA ∧ t.flagB = s.flagB ∧ t.outside = s.outside ∧
      t.siAck = s.siAck ∧ t.freeIndex = s.freeIndex ∧
      t.a = (if dst = .a then id else s.a) ∧ t.b = (if dst = .b then id else s.b) ∧
      t.tr = (if dst = .tr then id else s.tr) ∧ t.trb = (if dst = .trb then id else s.trb) ∧
      t.dp.toNat = (if dst = .dp then id.toNat % 256 else s.dp.toNat) ∧
      t.rp.toNat = (if dst = .rp then id.toNat % 1024 else s.rp.toNat) ∧
      t.dr = (if dst = .dr then id else s.dr) ∧ t.drq = (if dst = .dr then s.drq || s.srBit srDMA else s.drq) ∧
      (dst = .dr → ∀ j, j < 16 → t.srBit j = (s.srBit j || j == srRQM)) ∧ (dst ∉ [Dst.dr, .sr] → t.sr = s.sr) ∧
      (dst = .sr → srWriteIs s id false t) ∧
      (dst ≠ .sr → t.siMixed = s.siMixed ∧ t.intPending = s.intPending ∧ t.intLatched = s.intLatched) ∧
      t.so = (if dst = .som then id else if dst = .sol then rev16 id else s.so) ∧
      t.soAck = (s.soAck || dst == .som || dst == .sol) ∧
      t.k = (if dst = .k ∨ dst = .klr then id else if dst = .klm then s.ramAt (s.dp ||| 0x40) else s.k) ∧
      t.l = (if dst = .l ∨ dst = .klm then id else if dst = .klr then s.dromAt s.rp else s.l) ∧
      t.m = productM t.k t.l ∧ t.n = productN t.k t.l ∧
      ∀ addr : Nat, t.ram.read .ram addr =
        if dst = .mem ∧ addr = ramByte s.dp then id.extractLsb' 0 8
        else if dst = .mem ∧ addr = ramByte s.dp + 1 then id.extractLsb' 8 8
        else s.ram.read .ram addr

/-- The field-value rows that only step PC, each being the OP word with that field alone (R123, R125; log 18 is the
model's reading of these rows): a P-SELECT or ASL value without an ALU operation, the no-operation values, the sources
without a side effect and without a destination (R210), and @NON. -/
def Obligations.FieldRowsThatOnlyStep : Prop :=
  ∀ (s : State), s.ProductLegal →
    ∀ i ∈ [Instr.pselRam, .pselIdb, .pselM, .pselN, .aslA, .aslB, .dplNop, .dphm 0, .rpNop, .srcNon, .srcA, .srcB, .srcTr,
        .srcDp, .srcRp, .srcRo, .srcSgn, .srcDrnf, .srcSr, .srcK, .srcL, .srcMem, .dstNon],
      exec i s = .next { s with pc := s.pc + 1 }

/-- The other field-value rows (R123, R125; log 18), each alone in its word: the pointer fields (R182 to R185, R188), the
sources with a side effect (R199, R202, R203), and the destinations, which take TRB (R191). SR's bits are named, their
places are R42's default (log 6); M and N right after the write of K or L are D21 (log 23). -/
def Obligations.FieldRowsThatAct : Prop :=
  ∀ (s : State), s.ProductLegal →
    let next (t : State) : Host.Outcome State Fault Refusal :=
      .next { t with pc := s.pc + 1, m := productM t.k t.l, n := productN t.k t.l }
    exec .dplInc s = next { s with dp := s.dp.extractLsb' 4 4 ++ (s.dp.extractLsb' 0 4 + 1) } ∧
    exec .dplDec s = next { s with dp := s.dp.extractLsb' 4 4 ++ (s.dp.extractLsb' 0 4 - 1) } ∧
    exec .dplClr s = next { s with dp := s.dp &&& 0xF0 } ∧
    (∀ mask : BitVec 4, exec (.dphm mask) s = next { s with dp := s.dp ^^^ (mask ++ 0#4) }) ∧
    exec .rpDec s = next { s with rp := s.rp - 1 } ∧
    exec .srcDr s = next { s with sr := setBit srRQM s.sr, drq := s.drq || s.srBit srDMA } ∧
    exec .srcSim s = next { s with siAck := false } ∧
    exec .srcSil s = next { s with siAck := false } ∧
    exec .dstA s = next { s with a := s.trb } ∧
    exec .dstB s = next { s with b := s.trb } ∧
    exec .dstTr s = next { s with tr := s.trb } ∧
    exec .dstDp s = next { s with dp := s.trb.extractLsb' 0 8 } ∧
    exec .dstRp s = next { s with rp := s.trb.extractLsb' 0 10 } ∧
    exec .dstDr s = next { s with dr := s.trb, sr := setBit srRQM s.sr, drq := s.drq || s.srBit srDMA } ∧
    exec .dstSr s = next (s.writeSR s.trb) ∧
    (s.soAck = false → exec .dstSol s = next { s with so := rev16 s.trb, soAck := true }) ∧
    (s.soAck = false → exec .dstSom s = next { s with so := s.trb, soAck := true }) ∧
    exec .dstK s = next { s with k := s.trb } ∧
    exec .dstKlr s = next { s with k := s.trb, l := s.dromAt s.rp } ∧
    exec .dstKlm s = next { s with l := s.trb, k := s.ramAt (s.dp ||| 0x40) } ∧
    exec .dstL s = next { s with l := s.trb } ∧
    exec .dstTrb s = next s ∧
    exec .dstMem s = next (s.writeRam s.dp s.trb)

/-! ### The interrupt -/

/-- R301, R302, R308: the INT pin observed at a level: a rising edge with EI = 1 raises the request and clears EI, and no
other bit of SR changes; without a rising edge nothing changes but the remembered level; a rising edge with EI = 0 is
dropped or latched as INT_EDGE_WHILE_DISABLED says (D12 OPEN, log 12: the statement holds for either value). EI is named;
its place is R42's default (log 6). -/
def Obligations.InterruptDetected : Prop :=
  ∀ (s : State) (level : Bool) (rest : List Move), s.schedule = .intPin level :: rest →
    ∃ t, step s = .next t ∧ t.intPrev = level ∧
      (¬ (s.intPrev = false ∧ level = true) → t = { s with schedule := rest, intPrev := level }) ∧
      (s.intPrev = false → level = true → s.srBit srEI = true →
        t = { s with schedule := rest, intPrev := true, intPending := true, sr := t.sr } ∧
          ∀ j, j < 16 → t.srBit j = (s.srBit j && j != srEI)) ∧
      (s.intPrev = false → level = true → s.srBit srEI = false →
        t = { s with
          schedule := rest
          intPrev := true
          intLatched := s.intLatched || Config.intEdgeWhileDisabled == .latched })

/-- R303, R304 (D11, log 27: the request is taken at the next core step, in place of an instruction): PC is saved on the
stack, the oldest of four is lost (R24), PC is 100H, and nothing else changes but that the request is gone. -/
def Obligations.InterruptTaken : Prop :=
  ∀ (s : State) (rest : List Move), s.coreNext rest → s.intPending = true → s.StackLegal →
    step s = .next { s with
      schedule := rest
      intPending := false
      stack := s.pc :: (if s.stack.length = 4 then s.stack.take 3 else s.stack)
      pc := 0x100 }

/-- R302, R43, R322: the only step that sets EI is a core step that executes an instruction with DST = @SR; the only step
that sets RQM is a core step that executes an instruction with SRC = DR or DST = @DR. EI and RQM are named; their places
are R42's default (log 6). -/
def Obligations.EnableAndRequestOnlyByTransfer : Prop :=
  ∀ s t : State, step s = .next t →
    (s.srBit srEI = false → t.srBit srEI = true →
      ∃ (i : Instr) (rest : List Move), s.coreNext rest ∧ s.intPending = false ∧ s.fetches i ∧
        dstOf i.form = some .sr) ∧
    (s.srBit srRQM = false → t.srBit srRQM = true →
      ∃ (i : Instr) (rest : List Move), s.coreNext rest ∧ s.intPending = false ∧ s.fetches i ∧
        (srcOf i.form = some .dr ∨ dstOf i.form = some .dr))

/-- R37: a flag register changes only by reset, which clears all twelve flags, or by an OP or RT instruction whose ALU field
is not NOP, which leaves the flag register not named by ASL alone. -/
def Obligations.FlagsOnlyByALU : Prop :=
  ∀ s t : State, step s = .next t →
    (t.flagA = s.flagA ∧ t.flagB = s.flagB) ∨
    (∃ rest, s.schedule = .reset :: rest ∧
      t.flagA = ⟨false, false, false, false, false, false⟩ ∧ t.flagB = ⟨false, false, false, false, false, false⟩) ∨
    (∃ (i : Instr) (rest : List Move) (op : AluOp) (f : OpFields), s.coreNext rest ∧ s.intPending = false ∧ s.fetches i ∧
      (i.form = .op op f ∨ i.form = .rt op f) ∧ op ≠ .nop ∧ t.flag (other f.asl) = s.flag (other f.asl))

/-! ### The host -/

/-- R321 (D32, log 31): the rows of Table 3-6 that are no access of DR: an idle cycle changes nothing, a read of SR puts
its upper byte on the bus and changes nothing else, an inhibited cycle leaves the model (R329, log 16). Which bits of SR
the upper byte holds is R42's default (log 6). -/
def Obligations.HostCyclesOutsideDR : Prop :=
  ∀ (s : State) (pins : BusPins) (data : Byte) (rest : List Move), s.schedule = .host pins data :: rest →
    ((pins.cs = true ∧ pins.dack = true) ∨ (pins.dack = true ∧ pins.wr = true ∧ pins.rd = true) →
      step s = .next { s with schedule := rest }) ∧
    (pins = hostStatusPins → ∃ b : Byte,
      step s = .next { s with schedule := rest, hostBus := some b } ∧ ∀ j, j < 8 → b.getLsbD j = s.srBit (j + 8)) ∧
    ((pins.cs = false ∧ pins.dack = true ∧ pins.wr = false ∧ (pins.a0 = true ∨ pins.rd = false)) ∨
        (pins.dack = false ∧ pins.wr = pins.rd) →
      step s = .fault .inhibitedHostAccess)

/-- R323 (D15, D23; log 30): a host write of DR, in the three cases of the rule; in 8-bit mode the upper byte is free
(R325, D28; log 9) and not stated. SR's bits are named; their places are R42's default (log 6). -/
def Obligations.HostWritesDR : Prop :=
  ∀ (s : State) (data : Byte) (rest : List Move), s.schedule = .host hostWritePins data :: rest →
    ∃ t, step s = .next t ∧
      (s.srBit srDRC = true →
        t = { s with schedule := rest, dr := t.dr, sr := t.sr, freeIndex := t.freeIndex } ∧
          t.dr.extractLsb' 0 8 = data ∧ ∀ j, j < 16 → t.srBit j = (s.srBit j && j != srRQM)) ∧
      (s.srBit srDRC = false → s.srBit srDRS = false →
        t = { s with schedule := rest, dr := s.dr.extractLsb' 8 8 ++ data, sr := t.sr } ∧
          ∀ j, j < 16 → t.srBit j = (s.srBit j || j == srDRS)) ∧
      (s.srBit srDRC = false → s.srBit srDRS = true →
        t = { s with schedule := rest, dr := data ++ s.dr.extractLsb' 0 8, sr := t.sr } ∧
          ∀ j, j < 16 → t.srBit j = (s.srBit j && j != srDRS && j != srRQM))

/-- R324 (D15, D23; log 30): a host read of DR, in the three cases of the rule; DR is not changed. SR's bits are named;
their places are R42's default (log 6). -/
def Obligations.HostReadsDR : Prop :=
  ∀ (s : State) (data : Byte) (rest : List Move), s.schedule = .host hostReadPins data :: rest →
    ∃ t, step s = .next t ∧ t = { s with schedule := rest, hostBus := t.hostBus, sr := t.sr } ∧
      (s.srBit srDRC = true →
        t.hostBus = some (s.dr.extractLsb' 0 8) ∧ ∀ j, j < 16 → t.srBit j = (s.srBit j && j != srRQM)) ∧
      (s.srBit srDRC = false → s.srBit srDRS = false →
        t.hostBus = some (s.dr.extractLsb' 0 8) ∧ ∀ j, j < 16 → t.srBit j = (s.srBit j || j == srDRS)) ∧
      (s.srBit srDRC = false → s.srBit srDRS = true →
        t.hostBus = some (s.dr.extractLsb' 8 8) ∧ ∀ j, j < 16 → t.srBit j = (s.srBit j && j != srDRS && j != srRQM))

/-- R76, R323, R324 (D15; log 30): in 16-bit mode a word the host writes low byte first is the word DR holds, RQM and DRS
are 0 after it, and two reads give the host the same two bytes back in the same order. SR's bits are named; their places
are R42's default (log 6). -/
def Obligations.HostWordRoundTrip : Prop :=
  ∀ (s : State) (lo hi x y : Byte), s.srBit srDRC = false → s.srBit srDRS = false →
    s.schedule = [.host hostWritePins lo, .host hostWritePins hi, .host hostReadPins x, .host hostReadPins y] →
    ∃ t u v, runFor 2 s = some t ∧ t.dr = hi ++ lo ∧ t.srBit srDRS = false ∧ t.srBit srRQM = false ∧
      runFor 1 t = some u ∧ u.hostBus = some lo ∧ u.srBit srDRS = true ∧
      runFor 1 u = some v ∧ v.hostBus = some hi ∧ v.srBit srDRS = false ∧ v.dr = hi ++ lo

/-- R330, R321 (D15, D32; logs 30, 31): a DMA access, at every level of CS and A0, does to DR, RQM and DRS what the host's
access does, whatever the DMA bit is, and ends DRQ with the only byte or the upper byte of a pair; the host's own access
leaves DRQ. SR's bits are named; their places are R42's default (log 6). -/
def Obligations.DmaAccess : Prop :=
  ∀ (s : State) (cs a0 : Bool) (data : Byte) (rest : List Move),
    let d := s.drq && !(s.srBit srDRC || s.srBit srDRS)
    (∃ t, step { s with schedule := .host hostWritePins data :: rest } = .next t ∧ t.drq = s.drq ∧
      step { s with schedule := .host (dmaWritePins cs a0) data :: rest } = .next { t with drq := d }) ∧
    (∃ t, step { s with schedule := .host hostReadPins data :: rest } = .next t ∧ t.drq = s.drq ∧
      step { s with schedule := .host (dmaReadPins cs a0) data :: rest } = .next { t with drq := d })

/-! ### The serial sides -/

/-- R342, R343 (D33, log 28), for either length: the bits of a word, taken with SIEN = 0, arrive in SI with SI ACK = 1 and
the count back at 0, sixteen from bit 15 down, eight in the half SI8_PLACEMENT names from its top bit down with 0 in the
other half (D20 OPEN, log 12: for either value); nothing else changes but the shift register. R346, R342 (U14, D15; log
10): a word during which SIC changed is complete when its count reaches or exceeds the length in force, and SI then
receives the next free value. SIC is named; its place is R42's default (log 6). -/
def Obligations.SerialWordIn : Prop :=
  (∀ (s : State) (bits : List Bool), s.siCount = 0 → s.siMixed = false →
    bits.length = (if s.srBit srSIC then 8 else 16) → s.schedule = bits.map (Move.sckRise false) →
    ∃ t, runFor bits.length s = some t ∧
      t = { s with schedule := [], si := t.si, siShift := t.siShift, siAck := true, siCount := 0 } ∧
      (s.srBit srSIC = false → ∀ j, j < 16 → t.si.getLsbD (15 - j) = bits.getD j false) ∧
      (s.srBit srSIC = true → ∀ j, j < 8 →
        (Config.si8Placement = .high → t.si.getLsbD (15 - j) = bits.getD j false ∧ t.si.getLsbD j = false) ∧
        (Config.si8Placement = .low → t.si.getLsbD (7 - j) = bits.getD j false ∧ t.si.getLsbD (8 + j) = false))) ∧
  ∀ (s : State) (bit : Bool) (rest : List Move), s.schedule = .sckRise false bit :: rest → s.siMixed = true →
    let len := if s.srBit srSIC then 8 else 16
    ∃ t, step s = .next t ∧
      (s.siCount + 1 < len →
        t = { s with schedule := rest, siShift := t.siShift, siCount := s.siCount + 1 }) ∧
      (len ≤ s.siCount + 1 →
        t = { s with
          schedule := rest
          siShift := t.siShift
          si := Config.freeWord s.freeIndex
          freeIndex := s.freeIndex + 1
          siAck := true
          siCount := 0
          siMixed := false })

/-- R348, R349, R350, R351, R352 (D33, D35; logs 17, 28), for either length: a word in SO leaves, after SoLoad and the edge
that raises SORQ, one bit for each falling edge with SOEN = 0, from bit 15 down, or with SOC = 1 the eight bits of the
half SO8_SELECT names (D20 OPEN, log 12: for either value) from its top bit down; SORQ falls with the last. SOC is named;
its place is R42's default (log 6). -/
def Obligations.SerialWordOut : Prop :=
  ∀ (s : State) (n : Nat), s.soAck = true → s.soCount = 0 → s.sorq = false → s.soLoaded = false →
    let len := if s.srBit srSOC then 8 else 16
    let top := if s.srBit srSOC && Config.so8Select == .low then 8 else 16
    1 ≤ n → n ≤ len → s.schedule = .soLoad :: List.replicate (n + 1) (.sckFall false) →
    ∃ t, runFor (n + 2) s = some t ∧ t.soPin = some (s.so.getLsbD (top - n)) ∧ t.soCount = len - n ∧
      t.sorq = decide (n < len) ∧ t.soAck = false ∧ t.so = s.so ∧ t.schedule = []

/-- R341, R344, R353: an edge of SCK with the side disabled: with SIEN = 1 a rising edge changes nothing, with SOEN = 1 a
falling edge while a word is being sent changes only the SO pin, to high impedance. -/
def Obligations.SerialPaused : Prop :=
  ∀ (s : State) (bit : Bool) (rest : List Move),
    step { s with schedule := .sckRise true bit :: rest } = .next { s with schedule := rest } ∧
    (s.soLoaded = false →
      step { s with schedule := .sckFall true :: rest } = .next { s with schedule := rest, soPin := none })

/-- R351, R352, for either length: at the last bit of a word a datum waiting in SO follows without a gap, sixteen bits of
it or the eight SO8_SELECT names (D20 OPEN, log 12: for either value); SORQ stays and SO ACK falls. SOC is named; its
place is R42's default (log 6). The order of bits is D33 (log 28). -/
def Obligations.SerialNextWord : Prop :=
  ∀ (s : State) (rest : List Move), s.soLoaded = false → s.sorq = true → s.soCount = 1 → s.soAck = true →
    let len := if s.srBit srSOC then 8 else 16
    let top := if s.srBit srSOC && Config.so8Select == .low then 7 else 15
    ∃ t, step { s with schedule := .sckFall false :: rest } = .next t ∧
      t = { s with
        schedule := rest
        soPin := some (s.soShift.getLsbD 15)
        soShift := t.soShift
        soCount := len
        soAck := false } ∧
      ∀ j, j < len → t.soShift.getLsbD (15 - j) = s.so.getLsbD (top - j)

/-! ### Reset -/

/-- R370, R309 (D7, D10, D25; logs 11, 33 for what the source does not list): a reset at any moment clears what the source
says it clears, empties the stack and the request, and leaves the ROMs. -/
def Obligations.ResetAnyTime : Prop :=
  ∀ (s : State) (rest : List Move), s.schedule = .reset :: rest →
    ∃ t, step s = .next t ∧ t.pc = 0 ∧ t.sr = 0 ∧
      t.flagA = ⟨false, false, false, false, false, false⟩ ∧ t.flagB = ⟨false, false, false, false, false, false⟩ ∧
      t.siAck = false ∧ t.soAck = false ∧ t.drq = false ∧ t.sorq = false ∧ t.soPin = none ∧
      t.irom = s.irom ∧ t.drom = s.drom ∧
      t.stack = [] ∧ t.intPending = false ∧ t.intLatched = false ∧ t.siCount = 0 ∧ t.soCount = 0 ∧ t.soLoaded = false ∧
      t.schedule = rest
end

