-- ==== Sys2Proof/Laws/State.lean ====
section
/-! SUPPORT. What each named operation leaves alone and what it writes, one lemma per field. -/

namespace Sys2Proof.Machine

/-! ### multiply -/

@[simp] theorem multiply_pc (s : State) : (s.multiply).pc = s.pc := rfl
@[simp] theorem multiply_stack (s : State) : (s.multiply).stack = s.stack := rfl
@[simp] theorem multiply_rp (s : State) : (s.multiply).rp = s.rp := rfl
@[simp] theorem multiply_dp (s : State) : (s.multiply).dp = s.dp := rfl
@[simp] theorem multiply_ram (s : State) : (s.multiply).ram = s.ram := rfl
@[simp] theorem multiply_irom (s : State) : (s.multiply).irom = s.irom := rfl
@[simp] theorem multiply_drom (s : State) : (s.multiply).drom = s.drom := rfl
@[simp] theorem multiply_k (s : State) : (s.multiply).k = s.k := rfl
@[simp] theorem multiply_l (s : State) : (s.multiply).l = s.l := rfl
@[simp] theorem multiply_a (s : State) : (s.multiply).a = s.a := rfl
@[simp] theorem multiply_b (s : State) : (s.multiply).b = s.b := rfl
@[simp] theorem multiply_flagA (s : State) : (s.multiply).flagA = s.flagA := rfl
@[simp] theorem multiply_flagB (s : State) : (s.multiply).flagB = s.flagB := rfl
@[simp] theorem multiply_tr (s : State) : (s.multiply).tr = s.tr := rfl
@[simp] theorem multiply_trb (s : State) : (s.multiply).trb = s.trb := rfl
@[simp] theorem multiply_sr (s : State) : (s.multiply).sr = s.sr := rfl
@[simp] theorem multiply_dr (s : State) : (s.multiply).dr = s.dr := rfl
@[simp] theorem multiply_si (s : State) : (s.multiply).si = s.si := rfl
@[simp] theorem multiply_so (s : State) : (s.multiply).so = s.so := rfl
@[simp] theorem multiply_siAck (s : State) : (s.multiply).siAck = s.siAck := rfl
@[simp] theorem multiply_soAck (s : State) : (s.multiply).soAck = s.soAck := rfl
@[simp] theorem multiply_drq (s : State) : (s.multiply).drq = s.drq := rfl
@[simp] theorem multiply_sorq (s : State) : (s.multiply).sorq = s.sorq := rfl
@[simp] theorem multiply_soPin (s : State) : (s.multiply).soPin = s.soPin := rfl
@[simp] theorem multiply_hostBus (s : State) : (s.multiply).hostBus = s.hostBus := rfl
@[simp] theorem multiply_siShift (s : State) : (s.multiply).siShift = s.siShift := rfl
@[simp] theorem multiply_siCount (s : State) : (s.multiply).siCount = s.siCount := rfl
@[simp] theorem multiply_siMixed (s : State) : (s.multiply).siMixed = s.siMixed := rfl
@[simp] theorem multiply_soShift (s : State) : (s.multiply).soShift = s.soShift := rfl
@[simp] theorem multiply_soCount (s : State) : (s.multiply).soCount = s.soCount := rfl
@[simp] theorem multiply_soLoaded (s : State) : (s.multiply).soLoaded = s.soLoaded := rfl
@[simp] theorem multiply_intPending (s : State) : (s.multiply).intPending = s.intPending := rfl
@[simp] theorem multiply_intPrev (s : State) : (s.multiply).intPrev = s.intPrev := rfl
@[simp] theorem multiply_intLatched (s : State) : (s.multiply).intLatched = s.intLatched := rfl
@[simp] theorem multiply_freeIndex (s : State) : (s.multiply).freeIndex = s.freeIndex := rfl
@[simp] theorem multiply_schedule (s : State) : (s.multiply).schedule = s.schedule := rfl
@[simp] theorem multiply_m (s : State) : (s.multiply).m = productM s.k s.l := rfl
@[simp] theorem multiply_n (s : State) : (s.multiply).n = productN s.k s.l := rfl

/-! ### nextPc -/

@[simp] theorem nextPc_stack (s : State) : (s.nextPc).stack = s.stack := rfl
@[simp] theorem nextPc_rp (s : State) : (s.nextPc).rp = s.rp := rfl
@[simp] theorem nextPc_dp (s : State) : (s.nextPc).dp = s.dp := rfl
@[simp] theorem nextPc_ram (s : State) : (s.nextPc).ram = s.ram := rfl
@[simp] theorem nextPc_irom (s : State) : (s.nextPc).irom = s.irom := rfl
@[simp] theorem nextPc_drom (s : State) : (s.nextPc).drom = s.drom := rfl
@[simp] theorem nextPc_k (s : State) : (s.nextPc).k = s.k := rfl
@[simp] theorem nextPc_l (s : State) : (s.nextPc).l = s.l := rfl
@[simp] theorem nextPc_m (s : State) : (s.nextPc).m = s.m := rfl
@[simp] theorem nextPc_n (s : State) : (s.nextPc).n = s.n := rfl
@[simp] theorem nextPc_a (s : State) : (s.nextPc).a = s.a := rfl
@[simp] theorem nextPc_b (s : State) : (s.nextPc).b = s.b := rfl
@[simp] theorem nextPc_flagA (s : State) : (s.nextPc).flagA = s.flagA := rfl
@[simp] theorem nextPc_flagB (s : State) : (s.nextPc).flagB = s.flagB := rfl
@[simp] theorem nextPc_tr (s : State) : (s.nextPc).tr = s.tr := rfl
@[simp] theorem nextPc_trb (s : State) : (s.nextPc).trb = s.trb := rfl
@[simp] theorem nextPc_sr (s : State) : (s.nextPc).sr = s.sr := rfl
@[simp] theorem nextPc_dr (s : State) : (s.nextPc).dr = s.dr := rfl
@[simp] theorem nextPc_si (s : State) : (s.nextPc).si = s.si := rfl
@[simp] theorem nextPc_so (s : State) : (s.nextPc).so = s.so := rfl
@[simp] theorem nextPc_siAck (s : State) : (s.nextPc).siAck = s.siAck := rfl
@[simp] theorem nextPc_soAck (s : State) : (s.nextPc).soAck = s.soAck := rfl
@[simp] theorem nextPc_drq (s : State) : (s.nextPc).drq = s.drq := rfl
@[simp] theorem nextPc_sorq (s : State) : (s.nextPc).sorq = s.sorq := rfl
@[simp] theorem nextPc_soPin (s : State) : (s.nextPc).soPin = s.soPin := rfl
@[simp] theorem nextPc_hostBus (s : State) : (s.nextPc).hostBus = s.hostBus := rfl
@[simp] theorem nextPc_siShift (s : State) : (s.nextPc).siShift = s.siShift := rfl
@[simp] theorem nextPc_siCount (s : State) : (s.nextPc).siCount = s.siCount := rfl
@[simp] theorem nextPc_siMixed (s : State) : (s.nextPc).siMixed = s.siMixed := rfl
@[simp] theorem nextPc_soShift (s : State) : (s.nextPc).soShift = s.soShift := rfl
@[simp] theorem nextPc_soCount (s : State) : (s.nextPc).soCount = s.soCount := rfl
@[simp] theorem nextPc_soLoaded (s : State) : (s.nextPc).soLoaded = s.soLoaded := rfl
@[simp] theorem nextPc_intPending (s : State) : (s.nextPc).intPending = s.intPending := rfl
@[simp] theorem nextPc_intPrev (s : State) : (s.nextPc).intPrev = s.intPrev := rfl
@[simp] theorem nextPc_intLatched (s : State) : (s.nextPc).intLatched = s.intLatched := rfl
@[simp] theorem nextPc_freeIndex (s : State) : (s.nextPc).freeIndex = s.freeIndex := rfl
@[simp] theorem nextPc_schedule (s : State) : (s.nextPc).schedule = s.schedule := rfl
@[simp] theorem nextPc_pc (s : State) : (s.nextPc).pc = s.pc + 1 := rfl

/-! ### jumpTo -/

@[simp] theorem jumpTo_stack (s : State) (na : CodeAddr) : (s.jumpTo na).stack = s.stack := rfl
@[simp] theorem jumpTo_rp (s : State) (na : CodeAddr) : (s.jumpTo na).rp = s.rp := rfl
@[simp] theorem jumpTo_dp (s : State) (na : CodeAddr) : (s.jumpTo na).dp = s.dp := rfl
@[simp] theorem jumpTo_ram (s : State) (na : CodeAddr) : (s.jumpTo na).ram = s.ram := rfl
@[simp] theorem jumpTo_irom (s : State) (na : CodeAddr) : (s.jumpTo na).irom = s.irom := rfl
@[simp] theorem jumpTo_drom (s : State) (na : CodeAddr) : (s.jumpTo na).drom = s.drom := rfl
@[simp] theorem jumpTo_k (s : State) (na : CodeAddr) : (s.jumpTo na).k = s.k := rfl
@[simp] theorem jumpTo_l (s : State) (na : CodeAddr) : (s.jumpTo na).l = s.l := rfl
@[simp] theorem jumpTo_m (s : State) (na : CodeAddr) : (s.jumpTo na).m = s.m := rfl
@[simp] theorem jumpTo_n (s : State) (na : CodeAddr) : (s.jumpTo na).n = s.n := rfl
@[simp] theorem jumpTo_a (s : State) (na : CodeAddr) : (s.jumpTo na).a = s.a := rfl
@[simp] theorem jumpTo_b (s : State) (na : CodeAddr) : (s.jumpTo na).b = s.b := rfl
@[simp] theorem jumpTo_flagA (s : State) (na : CodeAddr) : (s.jumpTo na).flagA = s.flagA := rfl
@[simp] theorem jumpTo_flagB (s : State) (na : CodeAddr) : (s.jumpTo na).flagB = s.flagB := rfl
@[simp] theorem jumpTo_tr (s : State) (na : CodeAddr) : (s.jumpTo na).tr = s.tr := rfl
@[simp] theorem jumpTo_trb (s : State) (na : CodeAddr) : (s.jumpTo na).trb = s.trb := rfl
@[simp] theorem jumpTo_sr (s : State) (na : CodeAddr) : (s.jumpTo na).sr = s.sr := rfl
@[simp] theorem jumpTo_dr (s : State) (na : CodeAddr) : (s.jumpTo na).dr = s.dr := rfl
@[simp] theorem jumpTo_si (s : State) (na : CodeAddr) : (s.jumpTo na).si = s.si := rfl
@[simp] theorem jumpTo_so (s : State) (na : CodeAddr) : (s.jumpTo na).so = s.so := rfl
@[simp] theorem jumpTo_siAck (s : State) (na : CodeAddr) : (s.jumpTo na).siAck = s.siAck := rfl
@[simp] theorem jumpTo_soAck (s : State) (na : CodeAddr) : (s.jumpTo na).soAck = s.soAck := rfl
@[simp] theorem jumpTo_drq (s : State) (na : CodeAddr) : (s.jumpTo na).drq = s.drq := rfl
@[simp] theorem jumpTo_sorq (s : State) (na : CodeAddr) : (s.jumpTo na).sorq = s.sorq := rfl
@[simp] theorem jumpTo_soPin (s : State) (na : CodeAddr) : (s.jumpTo na).soPin = s.soPin := rfl
@[simp] theorem jumpTo_hostBus (s : State) (na : CodeAddr) : (s.jumpTo na).hostBus = s.hostBus := rfl
@[simp] theorem jumpTo_siShift (s : State) (na : CodeAddr) : (s.jumpTo na).siShift = s.siShift := rfl
@[simp] theorem jumpTo_siCount (s : State) (na : CodeAddr) : (s.jumpTo na).siCount = s.siCount := rfl
@[simp] theorem jumpTo_siMixed (s : State) (na : CodeAddr) : (s.jumpTo na).siMixed = s.siMixed := rfl
@[simp] theorem jumpTo_soShift (s : State) (na : CodeAddr) : (s.jumpTo na).soShift = s.soShift := rfl
@[simp] theorem jumpTo_soCount (s : State) (na : CodeAddr) : (s.jumpTo na).soCount = s.soCount := rfl
@[simp] theorem jumpTo_soLoaded (s : State) (na : CodeAddr) : (s.jumpTo na).soLoaded = s.soLoaded := rfl
@[simp] theorem jumpTo_intPending (s : State) (na : CodeAddr) : (s.jumpTo na).intPending = s.intPending := rfl
@[simp] theorem jumpTo_intPrev (s : State) (na : CodeAddr) : (s.jumpTo na).intPrev = s.intPrev := rfl
@[simp] theorem jumpTo_intLatched (s : State) (na : CodeAddr) : (s.jumpTo na).intLatched = s.intLatched := rfl
@[simp] theorem jumpTo_freeIndex (s : State) (na : CodeAddr) : (s.jumpTo na).freeIndex = s.freeIndex := rfl
@[simp] theorem jumpTo_schedule (s : State) (na : CodeAddr) : (s.jumpTo na).schedule = s.schedule := rfl
@[simp] theorem jumpTo_pc (s : State) (na : CodeAddr) : (s.jumpTo na).pc = na := rfl

/-! ### returnTo -/

@[simp] theorem returnTo_rp (s : State) (ret : CodeAddr) (rest : List CodeAddr) : (s.returnTo ret rest).rp = s.rp := rfl
@[simp] theorem returnTo_dp (s : State) (ret : CodeAddr) (rest : List CodeAddr) : (s.returnTo ret rest).dp = s.dp := rfl
@[simp] theorem returnTo_ram (s : State) (ret : CodeAddr) (rest : List CodeAddr) : (s.returnTo ret rest).ram = s.ram := rfl
@[simp] theorem returnTo_irom (s : State) (ret : CodeAddr) (rest : List CodeAddr) : (s.returnTo ret rest).irom = s.irom := rfl
@[simp] theorem returnTo_drom (s : State) (ret : CodeAddr) (rest : List CodeAddr) : (s.returnTo ret rest).drom = s.drom := rfl
@[simp] theorem returnTo_k (s : State) (ret : CodeAddr) (rest : List CodeAddr) : (s.returnTo ret rest).k = s.k := rfl
@[simp] theorem returnTo_l (s : State) (ret : CodeAddr) (rest : List CodeAddr) : (s.returnTo ret rest).l = s.l := rfl
@[simp] theorem returnTo_m (s : State) (ret : CodeAddr) (rest : List CodeAddr) : (s.returnTo ret rest).m = s.m := rfl
@[simp] theorem returnTo_n (s : State) (ret : CodeAddr) (rest : List CodeAddr) : (s.returnTo ret rest).n = s.n := rfl
@[simp] theorem returnTo_a (s : State) (ret : CodeAddr) (rest : List CodeAddr) : (s.returnTo ret rest).a = s.a := rfl
@[simp] theorem returnTo_b (s : State) (ret : CodeAddr) (rest : List CodeAddr) : (s.returnTo ret rest).b = s.b := rfl
@[simp] theorem returnTo_flagA (s : State) (ret : CodeAddr) (rest : List CodeAddr) : (s.returnTo ret rest).flagA = s.flagA := rfl
@[simp] theorem returnTo_flagB (s : State) (ret : CodeAddr) (rest : List CodeAddr) : (s.returnTo ret rest).flagB = s.flagB := rfl
@[simp] theorem returnTo_tr (s : State) (ret : CodeAddr) (rest : List CodeAddr) : (s.returnTo ret rest).tr = s.tr := rfl
@[simp] theorem returnTo_trb (s : State) (ret : CodeAddr) (rest : List CodeAddr) : (s.returnTo ret rest).trb = s.trb := rfl
@[simp] theorem returnTo_sr (s : State) (ret : CodeAddr) (rest : List CodeAddr) : (s.returnTo ret rest).sr = s.sr := rfl
@[simp] theorem returnTo_dr (s : State) (ret : CodeAddr) (rest : List CodeAddr) : (s.returnTo ret rest).dr = s.dr := rfl
@[simp] theorem returnTo_si (s : State) (ret : CodeAddr) (rest : List CodeAddr) : (s.returnTo ret rest).si = s.si := rfl
@[simp] theorem returnTo_so (s : State) (ret : CodeAddr) (rest : List CodeAddr) : (s.returnTo ret rest).so = s.so := rfl
@[simp] theorem returnTo_siAck (s : State) (ret : CodeAddr) (rest : List CodeAddr) : (s.returnTo ret rest).siAck = s.siAck := rfl
@[simp] theorem returnTo_soAck (s : State) (ret : CodeAddr) (rest : List CodeAddr) : (s.returnTo ret rest).soAck = s.soAck := rfl
@[simp] theorem returnTo_drq (s : State) (ret : CodeAddr) (rest : List CodeAddr) : (s.returnTo ret rest).drq = s.drq := rfl
@[simp] theorem returnTo_sorq (s : State) (ret : CodeAddr) (rest : List CodeAddr) : (s.returnTo ret rest).sorq = s.sorq := rfl
@[simp] theorem returnTo_soPin (s : State) (ret : CodeAddr) (rest : List CodeAddr) : (s.returnTo ret rest).soPin = s.soPin := rfl
@[simp] theorem returnTo_hostBus (s : State) (ret : CodeAddr) (rest : List CodeAddr) : (s.returnTo ret rest).hostBus = s.hostBus := rfl
@[simp] theorem returnTo_siShift (s : State) (ret : CodeAddr) (rest : List CodeAddr) : (s.returnTo ret rest).siShift = s.siShift := rfl
@[simp] theorem returnTo_siCount (s : State) (ret : CodeAddr) (rest : List CodeAddr) : (s.returnTo ret rest).siCount = s.siCount := rfl
@[simp] theorem returnTo_siMixed (s : State) (ret : CodeAddr) (rest : List CodeAddr) : (s.returnTo ret rest).siMixed = s.siMixed := rfl
@[simp] theorem returnTo_soShift (s : State) (ret : CodeAddr) (rest : List CodeAddr) : (s.returnTo ret rest).soShift = s.soShift := rfl
@[simp] theorem returnTo_soCount (s : State) (ret : CodeAddr) (rest : List CodeAddr) : (s.returnTo ret rest).soCount = s.soCount := rfl
@[simp] theorem returnTo_soLoaded (s : State) (ret : CodeAddr) (rest : List CodeAddr) : (s.returnTo ret rest).soLoaded = s.soLoaded := rfl
@[simp] theorem returnTo_intPending (s : State) (ret : CodeAddr) (rest : List CodeAddr) : (s.returnTo ret rest).intPending = s.intPending := rfl
@[simp] theorem returnTo_intPrev (s : State) (ret : CodeAddr) (rest : List CodeAddr) : (s.returnTo ret rest).intPrev = s.intPrev := rfl
@[simp] theorem returnTo_intLatched (s : State) (ret : CodeAddr) (rest : List CodeAddr) : (s.returnTo ret rest).intLatched = s.intLatched := rfl
@[simp] theorem returnTo_freeIndex (s : State) (ret : CodeAddr) (rest : List CodeAddr) : (s.returnTo ret rest).freeIndex = s.freeIndex := rfl
@[simp] theorem returnTo_schedule (s : State) (ret : CodeAddr) (rest : List CodeAddr) : (s.returnTo ret rest).schedule = s.schedule := rfl
@[simp] theorem returnTo_pc (s : State) (ret : CodeAddr) (rest : List CodeAddr) : (s.returnTo ret rest).pc = ret := rfl
@[simp] theorem returnTo_stack (s : State) (ret : CodeAddr) (rest : List CodeAddr) : (s.returnTo ret rest).stack = rest := rfl

/-! ### takeInterrupt -/

@[simp] theorem takeInterrupt_rp (s : State) : (s.takeInterrupt).rp = s.rp := rfl
@[simp] theorem takeInterrupt_dp (s : State) : (s.takeInterrupt).dp = s.dp := rfl
@[simp] theorem takeInterrupt_ram (s : State) : (s.takeInterrupt).ram = s.ram := rfl
@[simp] theorem takeInterrupt_irom (s : State) : (s.takeInterrupt).irom = s.irom := rfl
@[simp] theorem takeInterrupt_drom (s : State) : (s.takeInterrupt).drom = s.drom := rfl
@[simp] theorem takeInterrupt_k (s : State) : (s.takeInterrupt).k = s.k := rfl
@[simp] theorem takeInterrupt_l (s : State) : (s.takeInterrupt).l = s.l := rfl
@[simp] theorem takeInterrupt_m (s : State) : (s.takeInterrupt).m = s.m := rfl
@[simp] theorem takeInterrupt_n (s : State) : (s.takeInterrupt).n = s.n := rfl
@[simp] theorem takeInterrupt_a (s : State) : (s.takeInterrupt).a = s.a := rfl
@[simp] theorem takeInterrupt_b (s : State) : (s.takeInterrupt).b = s.b := rfl
@[simp] theorem takeInterrupt_flagA (s : State) : (s.takeInterrupt).flagA = s.flagA := rfl
@[simp] theorem takeInterrupt_flagB (s : State) : (s.takeInterrupt).flagB = s.flagB := rfl
@[simp] theorem takeInterrupt_tr (s : State) : (s.takeInterrupt).tr = s.tr := rfl
@[simp] theorem takeInterrupt_trb (s : State) : (s.takeInterrupt).trb = s.trb := rfl
@[simp] theorem takeInterrupt_sr (s : State) : (s.takeInterrupt).sr = s.sr := rfl
@[simp] theorem takeInterrupt_dr (s : State) : (s.takeInterrupt).dr = s.dr := rfl
@[simp] theorem takeInterrupt_si (s : State) : (s.takeInterrupt).si = s.si := rfl
@[simp] theorem takeInterrupt_so (s : State) : (s.takeInterrupt).so = s.so := rfl
@[simp] theorem takeInterrupt_siAck (s : State) : (s.takeInterrupt).siAck = s.siAck := rfl
@[simp] theorem takeInterrupt_soAck (s : State) : (s.takeInterrupt).soAck = s.soAck := rfl
@[simp] theorem takeInterrupt_drq (s : State) : (s.takeInterrupt).drq = s.drq := rfl
@[simp] theorem takeInterrupt_sorq (s : State) : (s.takeInterrupt).sorq = s.sorq := rfl
@[simp] theorem takeInterrupt_soPin (s : State) : (s.takeInterrupt).soPin = s.soPin := rfl
@[simp] theorem takeInterrupt_hostBus (s : State) : (s.takeInterrupt).hostBus = s.hostBus := rfl
@[simp] theorem takeInterrupt_siShift (s : State) : (s.takeInterrupt).siShift = s.siShift := rfl
@[simp] theorem takeInterrupt_siCount (s : State) : (s.takeInterrupt).siCount = s.siCount := rfl
@[simp] theorem takeInterrupt_siMixed (s : State) : (s.takeInterrupt).siMixed = s.siMixed := rfl
@[simp] theorem takeInterrupt_soShift (s : State) : (s.takeInterrupt).soShift = s.soShift := rfl
@[simp] theorem takeInterrupt_soCount (s : State) : (s.takeInterrupt).soCount = s.soCount := rfl
@[simp] theorem takeInterrupt_soLoaded (s : State) : (s.takeInterrupt).soLoaded = s.soLoaded := rfl
@[simp] theorem takeInterrupt_intPrev (s : State) : (s.takeInterrupt).intPrev = s.intPrev := rfl
@[simp] theorem takeInterrupt_intLatched (s : State) : (s.takeInterrupt).intLatched = s.intLatched := rfl
@[simp] theorem takeInterrupt_freeIndex (s : State) : (s.takeInterrupt).freeIndex = s.freeIndex := rfl
@[simp] theorem takeInterrupt_schedule (s : State) : (s.takeInterrupt).schedule = s.schedule := rfl
@[simp] theorem takeInterrupt_pc (s : State) : (s.takeInterrupt).pc = interruptEntry := rfl
@[simp] theorem takeInterrupt_stack (s : State) : (s.takeInterrupt).stack = pushReturn s.pc s.stack := rfl
@[simp] theorem takeInterrupt_intPending (s : State) : (s.takeInterrupt).intPending = false := rfl

/-! ### requestHost -/

@[simp] theorem requestHost_pc (s : State) : (s.requestHost).pc = s.pc := rfl
@[simp] theorem requestHost_stack (s : State) : (s.requestHost).stack = s.stack := rfl
@[simp] theorem requestHost_rp (s : State) : (s.requestHost).rp = s.rp := rfl
@[simp] theorem requestHost_dp (s : State) : (s.requestHost).dp = s.dp := rfl
@[simp] theorem requestHost_ram (s : State) : (s.requestHost).ram = s.ram := rfl
@[simp] theorem requestHost_irom (s : State) : (s.requestHost).irom = s.irom := rfl
@[simp] theorem requestHost_drom (s : State) : (s.requestHost).drom = s.drom := rfl
@[simp] theorem requestHost_k (s : State) : (s.requestHost).k = s.k := rfl
@[simp] theorem requestHost_l (s : State) : (s.requestHost).l = s.l := rfl
@[simp] theorem requestHost_m (s : State) : (s.requestHost).m = s.m := rfl
@[simp] theorem requestHost_n (s : State) : (s.requestHost).n = s.n := rfl
@[simp] theorem requestHost_a (s : State) : (s.requestHost).a = s.a := rfl
@[simp] theorem requestHost_b (s : State) : (s.requestHost).b = s.b := rfl
@[simp] theorem requestHost_flagA (s : State) : (s.requestHost).flagA = s.flagA := rfl
@[simp] theorem requestHost_flagB (s : State) : (s.requestHost).flagB = s.flagB := rfl
@[simp] theorem requestHost_tr (s : State) : (s.requestHost).tr = s.tr := rfl
@[simp] theorem requestHost_trb (s : State) : (s.requestHost).trb = s.trb := rfl
@[simp] theorem requestHost_dr (s : State) : (s.requestHost).dr = s.dr := rfl
@[simp] theorem requestHost_si (s : State) : (s.requestHost).si = s.si := rfl
@[simp] theorem requestHost_so (s : State) : (s.requestHost).so = s.so := rfl
@[simp] theorem requestHost_siAck (s : State) : (s.requestHost).siAck = s.siAck := rfl
@[simp] theorem requestHost_soAck (s : State) : (s.requestHost).soAck = s.soAck := rfl
@[simp] theorem requestHost_sorq (s : State) : (s.requestHost).sorq = s.sorq := rfl
@[simp] theorem requestHost_soPin (s : State) : (s.requestHost).soPin = s.soPin := rfl
@[simp] theorem requestHost_hostBus (s : State) : (s.requestHost).hostBus = s.hostBus := rfl
@[simp] theorem requestHost_siShift (s : State) : (s.requestHost).siShift = s.siShift := rfl
@[simp] theorem requestHost_siCount (s : State) : (s.requestHost).siCount = s.siCount := rfl
@[simp] theorem requestHost_siMixed (s : State) : (s.requestHost).siMixed = s.siMixed := rfl
@[simp] theorem requestHost_soShift (s : State) : (s.requestHost).soShift = s.soShift := rfl
@[simp] theorem requestHost_soCount (s : State) : (s.requestHost).soCount = s.soCount := rfl
@[simp] theorem requestHost_soLoaded (s : State) : (s.requestHost).soLoaded = s.soLoaded := rfl
@[simp] theorem requestHost_intPending (s : State) : (s.requestHost).intPending = s.intPending := rfl
@[simp] theorem requestHost_intPrev (s : State) : (s.requestHost).intPrev = s.intPrev := rfl
@[simp] theorem requestHost_intLatched (s : State) : (s.requestHost).intLatched = s.intLatched := rfl
@[simp] theorem requestHost_freeIndex (s : State) : (s.requestHost).freeIndex = s.freeIndex := rfl
@[simp] theorem requestHost_schedule (s : State) : (s.requestHost).schedule = s.schedule := rfl
@[simp] theorem requestHost_sr (s : State) : (s.requestHost).sr = setBit srRQM s.sr := rfl
@[simp] theorem requestHost_drq (s : State) : (s.requestHost).drq = (s.drq || s.srBit srDMA) := rfl

/-! ### writeSO -/

@[simp] theorem writeSO_pc (s : State) (v : Word) : (s.writeSO v).pc = s.pc := rfl
@[simp] theorem writeSO_stack (s : State) (v : Word) : (s.writeSO v).stack = s.stack := rfl
@[simp] theorem writeSO_rp (s : State) (v : Word) : (s.writeSO v).rp = s.rp := rfl
@[simp] theorem writeSO_dp (s : State) (v : Word) : (s.writeSO v).dp = s.dp := rfl
@[simp] theorem writeSO_ram (s : State) (v : Word) : (s.writeSO v).ram = s.ram := rfl
@[simp] theorem writeSO_irom (s : State) (v : Word) : (s.writeSO v).irom = s.irom := rfl
@[simp] theorem writeSO_drom (s : State) (v : Word) : (s.writeSO v).drom = s.drom := rfl
@[simp] theorem writeSO_k (s : State) (v : Word) : (s.writeSO v).k = s.k := rfl
@[simp] theorem writeSO_l (s : State) (v : Word) : (s.writeSO v).l = s.l := rfl
@[simp] theorem writeSO_m (s : State) (v : Word) : (s.writeSO v).m = s.m := rfl
@[simp] theorem writeSO_n (s : State) (v : Word) : (s.writeSO v).n = s.n := rfl
@[simp] theorem writeSO_a (s : State) (v : Word) : (s.writeSO v).a = s.a := rfl
@[simp] theorem writeSO_b (s : State) (v : Word) : (s.writeSO v).b = s.b := rfl
@[simp] theorem writeSO_flagA (s : State) (v : Word) : (s.writeSO v).flagA = s.flagA := rfl
@[simp] theorem writeSO_flagB (s : State) (v : Word) : (s.writeSO v).flagB = s.flagB := rfl
@[simp] theorem writeSO_tr (s : State) (v : Word) : (s.writeSO v).tr = s.tr := rfl
@[simp] theorem writeSO_trb (s : State) (v : Word) : (s.writeSO v).trb = s.trb := rfl
@[simp] theorem writeSO_sr (s : State) (v : Word) : (s.writeSO v).sr = s.sr := rfl
@[simp] theorem writeSO_dr (s : State) (v : Word) : (s.writeSO v).dr = s.dr := rfl
@[simp] theorem writeSO_si (s : State) (v : Word) : (s.writeSO v).si = s.si := rfl
@[simp] theorem writeSO_siAck (s : State) (v : Word) : (s.writeSO v).siAck = s.siAck := rfl
@[simp] theorem writeSO_drq (s : State) (v : Word) : (s.writeSO v).drq = s.drq := rfl
@[simp] theorem writeSO_sorq (s : State) (v : Word) : (s.writeSO v).sorq = s.sorq := rfl
@[simp] theorem writeSO_soPin (s : State) (v : Word) : (s.writeSO v).soPin = s.soPin := rfl
@[simp] theorem writeSO_hostBus (s : State) (v : Word) : (s.writeSO v).hostBus = s.hostBus := rfl
@[simp] theorem writeSO_siShift (s : State) (v : Word) : (s.writeSO v).siShift = s.siShift := rfl
@[simp] theorem writeSO_siCount (s : State) (v : Word) : (s.writeSO v).siCount = s.siCount := rfl
@[simp] theorem writeSO_siMixed (s : State) (v : Word) : (s.writeSO v).siMixed = s.siMixed := rfl
@[simp] theorem writeSO_soShift (s : State) (v : Word) : (s.writeSO v).soShift = s.soShift := rfl
@[simp] theorem writeSO_soCount (s : State) (v : Word) : (s.writeSO v).soCount = s.soCount := rfl
@[simp] theorem writeSO_soLoaded (s : State) (v : Word) : (s.writeSO v).soLoaded = s.soLoaded := rfl
@[simp] theorem writeSO_intPending (s : State) (v : Word) : (s.writeSO v).intPending = s.intPending := rfl
@[simp] theorem writeSO_intPrev (s : State) (v : Word) : (s.writeSO v).intPrev = s.intPrev := rfl
@[simp] theorem writeSO_intLatched (s : State) (v : Word) : (s.writeSO v).intLatched = s.intLatched := rfl
@[simp] theorem writeSO_freeIndex (s : State) (v : Word) : (s.writeSO v).freeIndex = s.freeIndex := rfl
@[simp] theorem writeSO_schedule (s : State) (v : Word) : (s.writeSO v).schedule = s.schedule := rfl
@[simp] theorem writeSO_so (s : State) (v : Word) : (s.writeSO v).so = v := rfl
@[simp] theorem writeSO_soAck (s : State) (v : Word) : (s.writeSO v).soAck = true := rfl

/-! ### writeRam -/

@[simp] theorem writeRam_pc (s : State) (i : RamAddr) (v : Word) : (s.writeRam i v).pc = s.pc := rfl
@[simp] theorem writeRam_stack (s : State) (i : RamAddr) (v : Word) : (s.writeRam i v).stack = s.stack := rfl
@[simp] theorem writeRam_rp (s : State) (i : RamAddr) (v : Word) : (s.writeRam i v).rp = s.rp := rfl
@[simp] theorem writeRam_dp (s : State) (i : RamAddr) (v : Word) : (s.writeRam i v).dp = s.dp := rfl
@[simp] theorem writeRam_irom (s : State) (i : RamAddr) (v : Word) : (s.writeRam i v).irom = s.irom := rfl
@[simp] theorem writeRam_drom (s : State) (i : RamAddr) (v : Word) : (s.writeRam i v).drom = s.drom := rfl
@[simp] theorem writeRam_k (s : State) (i : RamAddr) (v : Word) : (s.writeRam i v).k = s.k := rfl
@[simp] theorem writeRam_l (s : State) (i : RamAddr) (v : Word) : (s.writeRam i v).l = s.l := rfl
@[simp] theorem writeRam_m (s : State) (i : RamAddr) (v : Word) : (s.writeRam i v).m = s.m := rfl
@[simp] theorem writeRam_n (s : State) (i : RamAddr) (v : Word) : (s.writeRam i v).n = s.n := rfl
@[simp] theorem writeRam_a (s : State) (i : RamAddr) (v : Word) : (s.writeRam i v).a = s.a := rfl
@[simp] theorem writeRam_b (s : State) (i : RamAddr) (v : Word) : (s.writeRam i v).b = s.b := rfl
@[simp] theorem writeRam_flagA (s : State) (i : RamAddr) (v : Word) : (s.writeRam i v).flagA = s.flagA := rfl
@[simp] theorem writeRam_flagB (s : State) (i : RamAddr) (v : Word) : (s.writeRam i v).flagB = s.flagB := rfl
@[simp] theorem writeRam_tr (s : State) (i : RamAddr) (v : Word) : (s.writeRam i v).tr = s.tr := rfl
@[simp] theorem writeRam_trb (s : State) (i : RamAddr) (v : Word) : (s.writeRam i v).trb = s.trb := rfl
@[simp] theorem writeRam_sr (s : State) (i : RamAddr) (v : Word) : (s.writeRam i v).sr = s.sr := rfl
@[simp] theorem writeRam_dr (s : State) (i : RamAddr) (v : Word) : (s.writeRam i v).dr = s.dr := rfl
@[simp] theorem writeRam_si (s : State) (i : RamAddr) (v : Word) : (s.writeRam i v).si = s.si := rfl
@[simp] theorem writeRam_so (s : State) (i : RamAddr) (v : Word) : (s.writeRam i v).so = s.so := rfl
@[simp] theorem writeRam_siAck (s : State) (i : RamAddr) (v : Word) : (s.writeRam i v).siAck = s.siAck := rfl
@[simp] theorem writeRam_soAck (s : State) (i : RamAddr) (v : Word) : (s.writeRam i v).soAck = s.soAck := rfl
@[simp] theorem writeRam_drq (s : State) (i : RamAddr) (v : Word) : (s.writeRam i v).drq = s.drq := rfl
@[simp] theorem writeRam_sorq (s : State) (i : RamAddr) (v : Word) : (s.writeRam i v).sorq = s.sorq := rfl
@[simp] theorem writeRam_soPin (s : State) (i : RamAddr) (v : Word) : (s.writeRam i v).soPin = s.soPin := rfl
@[simp] theorem writeRam_hostBus (s : State) (i : RamAddr) (v : Word) : (s.writeRam i v).hostBus = s.hostBus := rfl
@[simp] theorem writeRam_siShift (s : State) (i : RamAddr) (v : Word) : (s.writeRam i v).siShift = s.siShift := rfl
@[simp] theorem writeRam_siCount (s : State) (i : RamAddr) (v : Word) : (s.writeRam i v).siCount = s.siCount := rfl
@[simp] theorem writeRam_siMixed (s : State) (i : RamAddr) (v : Word) : (s.writeRam i v).siMixed = s.siMixed := rfl
@[simp] theorem writeRam_soShift (s : State) (i : RamAddr) (v : Word) : (s.writeRam i v).soShift = s.soShift := rfl
@[simp] theorem writeRam_soCount (s : State) (i : RamAddr) (v : Word) : (s.writeRam i v).soCount = s.soCount := rfl
@[simp] theorem writeRam_soLoaded (s : State) (i : RamAddr) (v : Word) : (s.writeRam i v).soLoaded = s.soLoaded := rfl
@[simp] theorem writeRam_intPending (s : State) (i : RamAddr) (v : Word) : (s.writeRam i v).intPending = s.intPending := rfl
@[simp] theorem writeRam_intPrev (s : State) (i : RamAddr) (v : Word) : (s.writeRam i v).intPrev = s.intPrev := rfl
@[simp] theorem writeRam_intLatched (s : State) (i : RamAddr) (v : Word) : (s.writeRam i v).intLatched = s.intLatched := rfl
@[simp] theorem writeRam_freeIndex (s : State) (i : RamAddr) (v : Word) : (s.writeRam i v).freeIndex = s.freeIndex := rfl
@[simp] theorem writeRam_schedule (s : State) (i : RamAddr) (v : Word) : (s.writeRam i v).schedule = s.schedule := rfl
@[simp] theorem writeRam_ram (s : State) (i : RamAddr) (v : Word) : (s.writeRam i v).ram = s.ram.writeWord .ram (ramByte i) v := rfl

/-! ### stepPointers -/

@[simp] theorem stepPointers_pc (s : State) (f : OpFields) : (s.stepPointers f).pc = s.pc := rfl
@[simp] theorem stepPointers_stack (s : State) (f : OpFields) : (s.stepPointers f).stack = s.stack := rfl
@[simp] theorem stepPointers_ram (s : State) (f : OpFields) : (s.stepPointers f).ram = s.ram := rfl
@[simp] theorem stepPointers_irom (s : State) (f : OpFields) : (s.stepPointers f).irom = s.irom := rfl
@[simp] theorem stepPointers_drom (s : State) (f : OpFields) : (s.stepPointers f).drom = s.drom := rfl
@[simp] theorem stepPointers_k (s : State) (f : OpFields) : (s.stepPointers f).k = s.k := rfl
@[simp] theorem stepPointers_l (s : State) (f : OpFields) : (s.stepPointers f).l = s.l := rfl
@[simp] theorem stepPointers_m (s : State) (f : OpFields) : (s.stepPointers f).m = s.m := rfl
@[simp] theorem stepPointers_n (s : State) (f : OpFields) : (s.stepPointers f).n = s.n := rfl
@[simp] theorem stepPointers_a (s : State) (f : OpFields) : (s.stepPointers f).a = s.a := rfl
@[simp] theorem stepPointers_b (s : State) (f : OpFields) : (s.stepPointers f).b = s.b := rfl
@[simp] theorem stepPointers_flagA (s : State) (f : OpFields) : (s.stepPointers f).flagA = s.flagA := rfl
@[simp] theorem stepPointers_flagB (s : State) (f : OpFields) : (s.stepPointers f).flagB = s.flagB := rfl
@[simp] theorem stepPointers_tr (s : State) (f : OpFields) : (s.stepPointers f).tr = s.tr := rfl
@[simp] theorem stepPointers_trb (s : State) (f : OpFields) : (s.stepPointers f).trb = s.trb := rfl
@[simp] theorem stepPointers_sr (s : State) (f : OpFields) : (s.stepPointers f).sr = s.sr := rfl
@[simp] theorem stepPointers_dr (s : State) (f : OpFields) : (s.stepPointers f).dr = s.dr := rfl
@[simp] theorem stepPointers_si (s : State) (f : OpFields) : (s.stepPointers f).si = s.si := rfl
@[simp] theorem stepPointers_so (s : State) (f : OpFields) : (s.stepPointers f).so = s.so := rfl
@[simp] theorem stepPointers_siAck (s : State) (f : OpFields) : (s.stepPointers f).siAck = s.siAck := rfl
@[simp] theorem stepPointers_soAck (s : State) (f : OpFields) : (s.stepPointers f).soAck = s.soAck := rfl
@[simp] theorem stepPointers_drq (s : State) (f : OpFields) : (s.stepPointers f).drq = s.drq := rfl
@[simp] theorem stepPointers_sorq (s : State) (f : OpFields) : (s.stepPointers f).sorq = s.sorq := rfl
@[simp] theorem stepPointers_soPin (s : State) (f : OpFields) : (s.stepPointers f).soPin = s.soPin := rfl
@[simp] theorem stepPointers_hostBus (s : State) (f : OpFields) : (s.stepPointers f).hostBus = s.hostBus := rfl
@[simp] theorem stepPointers_siShift (s : State) (f : OpFields) : (s.stepPointers f).siShift = s.siShift := rfl
@[simp] theorem stepPointers_siCount (s : State) (f : OpFields) : (s.stepPointers f).siCount = s.siCount := rfl
@[simp] theorem stepPointers_siMixed (s : State) (f : OpFields) : (s.stepPointers f).siMixed = s.siMixed := rfl
@[simp] theorem stepPointers_soShift (s : State) (f : OpFields) : (s.stepPointers f).soShift = s.soShift := rfl
@[simp] theorem stepPointers_soCount (s : State) (f : OpFields) : (s.stepPointers f).soCount = s.soCount := rfl
@[simp] theorem stepPointers_soLoaded (s : State) (f : OpFields) : (s.stepPointers f).soLoaded = s.soLoaded := rfl
@[simp] theorem stepPointers_intPending (s : State) (f : OpFields) : (s.stepPointers f).intPending = s.intPending := rfl
@[simp] theorem stepPointers_intPrev (s : State) (f : OpFields) : (s.stepPointers f).intPrev = s.intPrev := rfl
@[simp] theorem stepPointers_intLatched (s : State) (f : OpFields) : (s.stepPointers f).intLatched = s.intLatched := rfl
@[simp] theorem stepPointers_freeIndex (s : State) (f : OpFields) : (s.stepPointers f).freeIndex = s.freeIndex := rfl
@[simp] theorem stepPointers_schedule (s : State) (f : OpFields) : (s.stepPointers f).schedule = s.schedule := rfl
@[simp] theorem stepPointers_dp (s : State) (f : OpFields) : (s.stepPointers f).dp = if f.dst = .dp then s.dp else dpNext f.dpl f.dphm s.dp := rfl
@[simp] theorem stepPointers_rp (s : State) (f : OpFields) : (s.stepPointers f).rp = if f.dst = .rp then s.rp else rpNext f.rpdcr s.rp := rfl

/-! ### writeSR -/

@[simp] theorem writeSR_pc (s : State) (v : Word) : (s.writeSR v).pc = s.pc := by
  simp only [State.writeSR]; split <;> rfl
@[simp] theorem writeSR_stack (s : State) (v : Word) : (s.writeSR v).stack = s.stack := by
  simp only [State.writeSR]; split <;> rfl
@[simp] theorem writeSR_rp (s : State) (v : Word) : (s.writeSR v).rp = s.rp := by
  simp only [State.writeSR]; split <;> rfl
@[simp] theorem writeSR_dp (s : State) (v : Word) : (s.writeSR v).dp = s.dp := by
  simp only [State.writeSR]; split <;> rfl
@[simp] theorem writeSR_ram (s : State) (v : Word) : (s.writeSR v).ram = s.ram := by
  simp only [State.writeSR]; split <;> rfl
@[simp] theorem writeSR_irom (s : State) (v : Word) : (s.writeSR v).irom = s.irom := by
  simp only [State.writeSR]; split <;> rfl
@[simp] theorem writeSR_drom (s : State) (v : Word) : (s.writeSR v).drom = s.drom := by
  simp only [State.writeSR]; split <;> rfl
@[simp] theorem writeSR_k (s : State) (v : Word) : (s.writeSR v).k = s.k := by
  simp only [State.writeSR]; split <;> rfl
@[simp] theorem writeSR_l (s : State) (v : Word) : (s.writeSR v).l = s.l := by
  simp only [State.writeSR]; split <;> rfl
@[simp] theorem writeSR_m (s : State) (v : Word) : (s.writeSR v).m = s.m := by
  simp only [State.writeSR]; split <;> rfl
@[simp] theorem writeSR_n (s : State) (v : Word) : (s.writeSR v).n = s.n := by
  simp only [State.writeSR]; split <;> rfl
@[simp] theorem writeSR_a (s : State) (v : Word) : (s.writeSR v).a = s.a := by
  simp only [State.writeSR]; split <;> rfl
@[simp] theorem writeSR_b (s : State) (v : Word) : (s.writeSR v).b = s.b := by
  simp only [State.writeSR]; split <;> rfl
@[simp] theorem writeSR_flagA (s : State) (v : Word) : (s.writeSR v).flagA = s.flagA := by
  simp only [State.writeSR]; split <;> rfl
@[simp] theorem writeSR_flagB (s : State) (v : Word) : (s.writeSR v).flagB = s.flagB := by
  simp only [State.writeSR]; split <;> rfl
@[simp] theorem writeSR_tr (s : State) (v : Word) : (s.writeSR v).tr = s.tr := by
  simp only [State.writeSR]; split <;> rfl
@[simp] theorem writeSR_trb (s : State) (v : Word) : (s.writeSR v).trb = s.trb := by
  simp only [State.writeSR]; split <;> rfl
@[simp] theorem writeSR_dr (s : State) (v : Word) : (s.writeSR v).dr = s.dr := by
  simp only [State.writeSR]; split <;> rfl
@[simp] theorem writeSR_si (s : State) (v : Word) : (s.writeSR v).si = s.si := by
  simp only [State.writeSR]; split <;> rfl
@[simp] theorem writeSR_so (s : State) (v : Word) : (s.writeSR v).so = s.so := by
  simp only [State.writeSR]; split <;> rfl
@[simp] theorem writeSR_siAck (s : State) (v : Word) : (s.writeSR v).siAck = s.siAck := by
  simp only [State.writeSR]; split <;> rfl
@[simp] theorem writeSR_soAck (s : State) (v : Word) : (s.writeSR v).soAck = s.soAck := by
  simp only [State.writeSR]; split <;> rfl
@[simp] theorem writeSR_drq (s : State) (v : Word) : (s.writeSR v).drq = s.drq := by
  simp only [State.writeSR]; split <;> rfl
@[simp] theorem writeSR_sorq (s : State) (v : Word) : (s.writeSR v).sorq = s.sorq := by
  simp only [State.writeSR]; split <;> rfl
@[simp] theorem writeSR_soPin (s : State) (v : Word) : (s.writeSR v).soPin = s.soPin := by
  simp only [State.writeSR]; split <;> rfl
@[simp] theorem writeSR_hostBus (s : State) (v : Word) : (s.writeSR v).hostBus = s.hostBus := by
  simp only [State.writeSR]; split <;> rfl
@[simp] theorem writeSR_siShift (s : State) (v : Word) : (s.writeSR v).siShift = s.siShift := by
  simp only [State.writeSR]; split <;> rfl
@[simp] theorem writeSR_siCount (s : State) (v : Word) : (s.writeSR v).siCount = s.siCount := by
  simp only [State.writeSR]; split <;> rfl
@[simp] theorem writeSR_soShift (s : State) (v : Word) : (s.writeSR v).soShift = s.soShift := by
  simp only [State.writeSR]; split <;> rfl
@[simp] theorem writeSR_soCount (s : State) (v : Word) : (s.writeSR v).soCount = s.soCount := by
  simp only [State.writeSR]; split <;> rfl
@[simp] theorem writeSR_soLoaded (s : State) (v : Word) : (s.writeSR v).soLoaded = s.soLoaded := by
  simp only [State.writeSR]; split <;> rfl
@[simp] theorem writeSR_intPrev (s : State) (v : Word) : (s.writeSR v).intPrev = s.intPrev := by
  simp only [State.writeSR]; split <;> rfl
@[simp] theorem writeSR_freeIndex (s : State) (v : Word) : (s.writeSR v).freeIndex = s.freeIndex := by
  simp only [State.writeSR]; split <;> rfl
@[simp] theorem writeSR_schedule (s : State) (v : Word) : (s.writeSR v).schedule = s.schedule := by
  simp only [State.writeSR]; split <;> rfl

/-! ### srcEffect -/

@[simp] theorem srcEffect_pc (s : State) (src : Src) : (s.srcEffect src).pc = s.pc := by
  cases src <;> rfl
@[simp] theorem srcEffect_stack (s : State) (src : Src) : (s.srcEffect src).stack = s.stack := by
  cases src <;> rfl
@[simp] theorem srcEffect_rp (s : State) (src : Src) : (s.srcEffect src).rp = s.rp := by
  cases src <;> rfl
@[simp] theorem srcEffect_dp (s : State) (src : Src) : (s.srcEffect src).dp = s.dp := by
  cases src <;> rfl
@[simp] theorem srcEffect_ram (s : State) (src : Src) : (s.srcEffect src).ram = s.ram := by
  cases src <;> rfl
@[simp] theorem srcEffect_irom (s : State) (src : Src) : (s.srcEffect src).irom = s.irom := by
  cases src <;> rfl
@[simp] theorem srcEffect_drom (s : State) (src : Src) : (s.srcEffect src).drom = s.drom := by
  cases src <;> rfl
@[simp] theorem srcEffect_k (s : State) (src : Src) : (s.srcEffect src).k = s.k := by
  cases src <;> rfl
@[simp] theorem srcEffect_l (s : State) (src : Src) : (s.srcEffect src).l = s.l := by
  cases src <;> rfl
@[simp] theorem srcEffect_m (s : State) (src : Src) : (s.srcEffect src).m = s.m := by
  cases src <;> rfl
@[simp] theorem srcEffect_n (s : State) (src : Src) : (s.srcEffect src).n = s.n := by
  cases src <;> rfl
@[simp] theorem srcEffect_a (s : State) (src : Src) : (s.srcEffect src).a = s.a := by
  cases src <;> rfl
@[simp] theorem srcEffect_b (s : State) (src : Src) : (s.srcEffect src).b = s.b := by
  cases src <;> rfl
@[simp] theorem srcEffect_flagA (s : State) (src : Src) : (s.srcEffect src).flagA = s.flagA := by
  cases src <;> rfl
@[simp] theorem srcEffect_flagB (s : State) (src : Src) : (s.srcEffect src).flagB = s.flagB := by
  cases src <;> rfl
@[simp] theorem srcEffect_tr (s : State) (src : Src) : (s.srcEffect src).tr = s.tr := by
  cases src <;> rfl
@[simp] theorem srcEffect_trb (s : State) (src : Src) : (s.srcEffect src).trb = s.trb := by
  cases src <;> rfl
@[simp] theorem srcEffect_dr (s : State) (src : Src) : (s.srcEffect src).dr = s.dr := by
  cases src <;> rfl
@[simp] theorem srcEffect_si (s : State) (src : Src) : (s.srcEffect src).si = s.si := by
  cases src <;> rfl
@[simp] theorem srcEffect_so (s : State) (src : Src) : (s.srcEffect src).so = s.so := by
  cases src <;> rfl
@[simp] theorem srcEffect_soAck (s : State) (src : Src) : (s.srcEffect src).soAck = s.soAck := by
  cases src <;> rfl
@[simp] theorem srcEffect_sorq (s : State) (src : Src) : (s.srcEffect src).sorq = s.sorq := by
  cases src <;> rfl
@[simp] theorem srcEffect_soPin (s : State) (src : Src) : (s.srcEffect src).soPin = s.soPin := by
  cases src <;> rfl
@[simp] theorem srcEffect_hostBus (s : State) (src : Src) : (s.srcEffect src).hostBus = s.hostBus := by
  cases src <;> rfl
@[simp] theorem srcEffect_siShift (s : State) (src : Src) : (s.srcEffect src).siShift = s.siShift := by
  cases src <;> rfl
@[simp] theorem srcEffect_siCount (s : State) (src : Src) : (s.srcEffect src).siCount = s.siCount := by
  cases src <;> rfl
@[simp] theorem srcEffect_siMixed (s : State) (src : Src) : (s.srcEffect src).siMixed = s.siMixed := by
  cases src <;> rfl
@[simp] theorem srcEffect_soShift (s : State) (src : Src) : (s.srcEffect src).soShift = s.soShift := by
  cases src <;> rfl
@[simp] theorem srcEffect_soCount (s : State) (src : Src) : (s.srcEffect src).soCount = s.soCount := by
  cases src <;> rfl
@[simp] theorem srcEffect_soLoaded (s : State) (src : Src) : (s.srcEffect src).soLoaded = s.soLoaded := by
  cases src <;> rfl
@[simp] theorem srcEffect_intPending (s : State) (src : Src) : (s.srcEffect src).intPending = s.intPending := by
  cases src <;> rfl
@[simp] theorem srcEffect_intPrev (s : State) (src : Src) : (s.srcEffect src).intPrev = s.intPrev := by
  cases src <;> rfl
@[simp] theorem srcEffect_intLatched (s : State) (src : Src) : (s.srcEffect src).intLatched = s.intLatched := by
  cases src <;> rfl
@[simp] theorem srcEffect_freeIndex (s : State) (src : Src) : (s.srcEffect src).freeIndex = s.freeIndex := by
  cases src <;> rfl
@[simp] theorem srcEffect_schedule (s : State) (src : Src) : (s.srcEffect src).schedule = s.schedule := by
  cases src <;> rfl

/-! ### writeAcc -/

@[simp] theorem writeAcc_pc (s : State) (x : Acc) (r : Word × Flags) : (s.writeAcc x r).pc = s.pc := by
  cases x <;> rfl
@[simp] theorem writeAcc_stack (s : State) (x : Acc) (r : Word × Flags) : (s.writeAcc x r).stack = s.stack := by
  cases x <;> rfl
@[simp] theorem writeAcc_rp (s : State) (x : Acc) (r : Word × Flags) : (s.writeAcc x r).rp = s.rp := by
  cases x <;> rfl
@[simp] theorem writeAcc_dp (s : State) (x : Acc) (r : Word × Flags) : (s.writeAcc x r).dp = s.dp := by
  cases x <;> rfl
@[simp] theorem writeAcc_ram (s : State) (x : Acc) (r : Word × Flags) : (s.writeAcc x r).ram = s.ram := by
  cases x <;> rfl
@[simp] theorem writeAcc_irom (s : State) (x : Acc) (r : Word × Flags) : (s.writeAcc x r).irom = s.irom := by
  cases x <;> rfl
@[simp] theorem writeAcc_drom (s : State) (x : Acc) (r : Word × Flags) : (s.writeAcc x r).drom = s.drom := by
  cases x <;> rfl
@[simp] theorem writeAcc_k (s : State) (x : Acc) (r : Word × Flags) : (s.writeAcc x r).k = s.k := by
  cases x <;> rfl
@[simp] theorem writeAcc_l (s : State) (x : Acc) (r : Word × Flags) : (s.writeAcc x r).l = s.l := by
  cases x <;> rfl
@[simp] theorem writeAcc_m (s : State) (x : Acc) (r : Word × Flags) : (s.writeAcc x r).m = s.m := by
  cases x <;> rfl
@[simp] theorem writeAcc_n (s : State) (x : Acc) (r : Word × Flags) : (s.writeAcc x r).n = s.n := by
  cases x <;> rfl
@[simp] theorem writeAcc_tr (s : State) (x : Acc) (r : Word × Flags) : (s.writeAcc x r).tr = s.tr := by
  cases x <;> rfl
@[simp] theorem writeAcc_trb (s : State) (x : Acc) (r : Word × Flags) : (s.writeAcc x r).trb = s.trb := by
  cases x <;> rfl
@[simp] theorem writeAcc_sr (s : State) (x : Acc) (r : Word × Flags) : (s.writeAcc x r).sr = s.sr := by
  cases x <;> rfl
@[simp] theorem writeAcc_dr (s : State) (x : Acc) (r : Word × Flags) : (s.writeAcc x r).dr = s.dr := by
  cases x <;> rfl
@[simp] theorem writeAcc_si (s : State) (x : Acc) (r : Word × Flags) : (s.writeAcc x r).si = s.si := by
  cases x <;> rfl
@[simp] theorem writeAcc_so (s : State) (x : Acc) (r : Word × Flags) : (s.writeAcc x r).so = s.so := by
  cases x <;> rfl
@[simp] theorem writeAcc_siAck (s : State) (x : Acc) (r : Word × Flags) : (s.writeAcc x r).siAck = s.siAck := by
  cases x <;> rfl
@[simp] theorem writeAcc_soAck (s : State) (x : Acc) (r : Word × Flags) : (s.writeAcc x r).soAck = s.soAck := by
  cases x <;> rfl
@[simp] theorem writeAcc_drq (s : State) (x : Acc) (r : Word × Flags) : (s.writeAcc x r).drq = s.drq := by
  cases x <;> rfl
@[simp] theorem writeAcc_sorq (s : State) (x : Acc) (r : Word × Flags) : (s.writeAcc x r).sorq = s.sorq := by
  cases x <;> rfl
@[simp] theorem writeAcc_soPin (s : State) (x : Acc) (r : Word × Flags) : (s.writeAcc x r).soPin = s.soPin := by
  cases x <;> rfl
@[simp] theorem writeAcc_hostBus (s : State) (x : Acc) (r : Word × Flags) : (s.writeAcc x r).hostBus = s.hostBus := by
  cases x <;> rfl
@[simp] theorem writeAcc_siShift (s : State) (x : Acc) (r : Word × Flags) : (s.writeAcc x r).siShift = s.siShift := by
  cases x <;> rfl
@[simp] theorem writeAcc_siCount (s : State) (x : Acc) (r : Word × Flags) : (s.writeAcc x r).siCount = s.siCount := by
  cases x <;> rfl
@[simp] theorem writeAcc_siMixed (s : State) (x : Acc) (r : Word × Flags) : (s.writeAcc x r).siMixed = s.siMixed := by
  cases x <;> rfl
@[simp] theorem writeAcc_soShift (s : State) (x : Acc) (r : Word × Flags) : (s.writeAcc x r).soShift = s.soShift := by
  cases x <;> rfl
@[simp] theorem writeAcc_soCount (s : State) (x : Acc) (r : Word × Flags) : (s.writeAcc x r).soCount = s.soCount := by
  cases x <;> rfl
@[simp] theorem writeAcc_soLoaded (s : State) (x : Acc) (r : Word × Flags) : (s.writeAcc x r).soLoaded = s.soLoaded := by
  cases x <;> rfl
@[simp] theorem writeAcc_intPending (s : State) (x : Acc) (r : Word × Flags) : (s.writeAcc x r).intPending = s.intPending := by
  cases x <;> rfl
@[simp] theorem writeAcc_intPrev (s : State) (x : Acc) (r : Word × Flags) : (s.writeAcc x r).intPrev = s.intPrev := by
  cases x <;> rfl
@[simp] theorem writeAcc_intLatched (s : State) (x : Acc) (r : Word × Flags) : (s.writeAcc x r).intLatched = s.intLatched := by
  cases x <;> rfl
@[simp] theorem writeAcc_freeIndex (s : State) (x : Acc) (r : Word × Flags) : (s.writeAcc x r).freeIndex = s.freeIndex := by
  cases x <;> rfl
@[simp] theorem writeAcc_schedule (s : State) (x : Acc) (r : Word × Flags) : (s.writeAcc x r).schedule = s.schedule := by
  cases x <;> rfl

/-! ### aluStep -/

@[simp] theorem aluStep_pc (s : State) (op : AluOp) (x : Acc) (p : Word) : (s.aluStep op x p).pc = s.pc := by
  cases op <;> cases x <;> rfl
@[simp] theorem aluStep_stack (s : State) (op : AluOp) (x : Acc) (p : Word) : (s.aluStep op x p).stack = s.stack := by
  cases op <;> cases x <;> rfl
@[simp] theorem aluStep_rp (s : State) (op : AluOp) (x : Acc) (p : Word) : (s.aluStep op x p).rp = s.rp := by
  cases op <;> cases x <;> rfl
@[simp] theorem aluStep_dp (s : State) (op : AluOp) (x : Acc) (p : Word) : (s.aluStep op x p).dp = s.dp := by
  cases op <;> cases x <;> rfl
@[simp] theorem aluStep_ram (s : State) (op : AluOp) (x : Acc) (p : Word) : (s.aluStep op x p).ram = s.ram := by
  cases op <;> cases x <;> rfl
@[simp] theorem aluStep_irom (s : State) (op : AluOp) (x : Acc) (p : Word) : (s.aluStep op x p).irom = s.irom := by
  cases op <;> cases x <;> rfl
@[simp] theorem aluStep_drom (s : State) (op : AluOp) (x : Acc) (p : Word) : (s.aluStep op x p).drom = s.drom := by
  cases op <;> cases x <;> rfl
@[simp] theorem aluStep_k (s : State) (op : AluOp) (x : Acc) (p : Word) : (s.aluStep op x p).k = s.k := by
  cases op <;> cases x <;> rfl
@[simp] theorem aluStep_l (s : State) (op : AluOp) (x : Acc) (p : Word) : (s.aluStep op x p).l = s.l := by
  cases op <;> cases x <;> rfl
@[simp] theorem aluStep_m (s : State) (op : AluOp) (x : Acc) (p : Word) : (s.aluStep op x p).m = s.m := by
  cases op <;> cases x <;> rfl
@[simp] theorem aluStep_n (s : State) (op : AluOp) (x : Acc) (p : Word) : (s.aluStep op x p).n = s.n := by
  cases op <;> cases x <;> rfl
@[simp] theorem aluStep_tr (s : State) (op : AluOp) (x : Acc) (p : Word) : (s.aluStep op x p).tr = s.tr := by
  cases op <;> cases x <;> rfl
@[simp] theorem aluStep_trb (s : State) (op : AluOp) (x : Acc) (p : Word) : (s.aluStep op x p).trb = s.trb := by
  cases op <;> cases x <;> rfl
@[simp] theorem aluStep_sr (s : State) (op : AluOp) (x : Acc) (p : Word) : (s.aluStep op x p).sr = s.sr := by
  cases op <;> cases x <;> rfl
@[simp] theorem aluStep_dr (s : State) (op : AluOp) (x : Acc) (p : Word) : (s.aluStep op x p).dr = s.dr := by
  cases op <;> cases x <;> rfl
@[simp] theorem aluStep_si (s : State) (op : AluOp) (x : Acc) (p : Word) : (s.aluStep op x p).si = s.si := by
  cases op <;> cases x <;> rfl
@[simp] theorem aluStep_so (s : State) (op : AluOp) (x : Acc) (p : Word) : (s.aluStep op x p).so = s.so := by
  cases op <;> cases x <;> rfl
@[simp] theorem aluStep_siAck (s : State) (op : AluOp) (x : Acc) (p : Word) : (s.aluStep op x p).siAck = s.siAck := by
  cases op <;> cases x <;> rfl
@[simp] theorem aluStep_soAck (s : State) (op : AluOp) (x : Acc) (p : Word) : (s.aluStep op x p).soAck = s.soAck := by
  cases op <;> cases x <;> rfl
@[simp] theorem aluStep_drq (s : State) (op : AluOp) (x : Acc) (p : Word) : (s.aluStep op x p).drq = s.drq := by
  cases op <;> cases x <;> rfl
@[simp] theorem aluStep_sorq (s : State) (op : AluOp) (x : Acc) (p : Word) : (s.aluStep op x p).sorq = s.sorq := by
  cases op <;> cases x <;> rfl
@[simp] theorem aluStep_soPin (s : State) (op : AluOp) (x : Acc) (p : Word) : (s.aluStep op x p).soPin = s.soPin := by
  cases op <;> cases x <;> rfl
@[simp] theorem aluStep_hostBus (s : State) (op : AluOp) (x : Acc) (p : Word) : (s.aluStep op x p).hostBus = s.hostBus := by
  cases op <;> cases x <;> rfl
@[simp] theorem aluStep_siShift (s : State) (op : AluOp) (x : Acc) (p : Word) : (s.aluStep op x p).siShift = s.siShift := by
  cases op <;> cases x <;> rfl
@[simp] theorem aluStep_siCount (s : State) (op : AluOp) (x : Acc) (p : Word) : (s.aluStep op x p).siCount = s.siCount := by
  cases op <;> cases x <;> rfl
@[simp] theorem aluStep_siMixed (s : State) (op : AluOp) (x : Acc) (p : Word) : (s.aluStep op x p).siMixed = s.siMixed := by
  cases op <;> cases x <;> rfl
@[simp] theorem aluStep_soShift (s : State) (op : AluOp) (x : Acc) (p : Word) : (s.aluStep op x p).soShift = s.soShift := by
  cases op <;> cases x <;> rfl
@[simp] theorem aluStep_soCount (s : State) (op : AluOp) (x : Acc) (p : Word) : (s.aluStep op x p).soCount = s.soCount := by
  cases op <;> cases x <;> rfl
@[simp] theorem aluStep_soLoaded (s : State) (op : AluOp) (x : Acc) (p : Word) : (s.aluStep op x p).soLoaded = s.soLoaded := by
  cases op <;> cases x <;> rfl
@[simp] theorem aluStep_intPending (s : State) (op : AluOp) (x : Acc) (p : Word) : (s.aluStep op x p).intPending = s.intPending := by
  cases op <;> cases x <;> rfl
@[simp] theorem aluStep_intPrev (s : State) (op : AluOp) (x : Acc) (p : Word) : (s.aluStep op x p).intPrev = s.intPrev := by
  cases op <;> cases x <;> rfl
@[simp] theorem aluStep_intLatched (s : State) (op : AluOp) (x : Acc) (p : Word) : (s.aluStep op x p).intLatched = s.intLatched := by
  cases op <;> cases x <;> rfl
@[simp] theorem aluStep_schedule (s : State) (op : AluOp) (x : Acc) (p : Word) : (s.aluStep op x p).schedule = s.schedule := by
  cases op <;> cases x <;> rfl

/-! ### writeDst -/

@[simp] theorem writeDst_pc (s : State) (dst : Dst) (v : Word) : (s.writeDst dst v).pc = s.pc := by
  cases dst <;> simp [State.writeDst]
@[simp] theorem writeDst_stack (s : State) (dst : Dst) (v : Word) : (s.writeDst dst v).stack = s.stack := by
  cases dst <;> simp [State.writeDst]
@[simp] theorem writeDst_irom (s : State) (dst : Dst) (v : Word) : (s.writeDst dst v).irom = s.irom := by
  cases dst <;> simp [State.writeDst]
@[simp] theorem writeDst_drom (s : State) (dst : Dst) (v : Word) : (s.writeDst dst v).drom = s.drom := by
  cases dst <;> simp [State.writeDst]
@[simp] theorem writeDst_m (s : State) (dst : Dst) (v : Word) : (s.writeDst dst v).m = s.m := by
  cases dst <;> simp [State.writeDst]
@[simp] theorem writeDst_n (s : State) (dst : Dst) (v : Word) : (s.writeDst dst v).n = s.n := by
  cases dst <;> simp [State.writeDst]
@[simp] theorem writeDst_flagA (s : State) (dst : Dst) (v : Word) : (s.writeDst dst v).flagA = s.flagA := by
  cases dst <;> simp [State.writeDst]
@[simp] theorem writeDst_flagB (s : State) (dst : Dst) (v : Word) : (s.writeDst dst v).flagB = s.flagB := by
  cases dst <;> simp [State.writeDst]
@[simp] theorem writeDst_si (s : State) (dst : Dst) (v : Word) : (s.writeDst dst v).si = s.si := by
  cases dst <;> simp [State.writeDst]
@[simp] theorem writeDst_siAck (s : State) (dst : Dst) (v : Word) : (s.writeDst dst v).siAck = s.siAck := by
  cases dst <;> simp [State.writeDst]
@[simp] theorem writeDst_sorq (s : State) (dst : Dst) (v : Word) : (s.writeDst dst v).sorq = s.sorq := by
  cases dst <;> simp [State.writeDst]
@[simp] theorem writeDst_soPin (s : State) (dst : Dst) (v : Word) : (s.writeDst dst v).soPin = s.soPin := by
  cases dst <;> simp [State.writeDst]
@[simp] theorem writeDst_hostBus (s : State) (dst : Dst) (v : Word) : (s.writeDst dst v).hostBus = s.hostBus := by
  cases dst <;> simp [State.writeDst]
@[simp] theorem writeDst_siShift (s : State) (dst : Dst) (v : Word) : (s.writeDst dst v).siShift = s.siShift := by
  cases dst <;> simp [State.writeDst]
@[simp] theorem writeDst_siCount (s : State) (dst : Dst) (v : Word) : (s.writeDst dst v).siCount = s.siCount := by
  cases dst <;> simp [State.writeDst]
@[simp] theorem writeDst_soShift (s : State) (dst : Dst) (v : Word) : (s.writeDst dst v).soShift = s.soShift := by
  cases dst <;> simp [State.writeDst]
@[simp] theorem writeDst_soCount (s : State) (dst : Dst) (v : Word) : (s.writeDst dst v).soCount = s.soCount := by
  cases dst <;> simp [State.writeDst]
@[simp] theorem writeDst_soLoaded (s : State) (dst : Dst) (v : Word) : (s.writeDst dst v).soLoaded = s.soLoaded := by
  cases dst <;> simp [State.writeDst]
@[simp] theorem writeDst_intPrev (s : State) (dst : Dst) (v : Word) : (s.writeDst dst v).intPrev = s.intPrev := by
  cases dst <;> simp [State.writeDst]
@[simp] theorem writeDst_freeIndex (s : State) (dst : Dst) (v : Word) : (s.writeDst dst v).freeIndex = s.freeIndex := by
  cases dst <;> simp [State.writeDst]
@[simp] theorem writeDst_schedule (s : State) (dst : Dst) (v : Word) : (s.writeDst dst v).schedule = s.schedule := by
  cases dst <;> simp [State.writeDst]

/-! ### opBody -/

@[simp] theorem opBody_pc (op : AluOp) (f : OpFields) (s : State) : (opBody op f s).pc = s.pc := by
  simp [opBody]
@[simp] theorem opBody_stack (op : AluOp) (f : OpFields) (s : State) : (opBody op f s).stack = s.stack := by
  simp [opBody]
@[simp] theorem opBody_irom (op : AluOp) (f : OpFields) (s : State) : (opBody op f s).irom = s.irom := by
  simp [opBody]
@[simp] theorem opBody_drom (op : AluOp) (f : OpFields) (s : State) : (opBody op f s).drom = s.drom := by
  simp [opBody]
@[simp] theorem opBody_si (op : AluOp) (f : OpFields) (s : State) : (opBody op f s).si = s.si := by
  simp [opBody]
@[simp] theorem opBody_sorq (op : AluOp) (f : OpFields) (s : State) : (opBody op f s).sorq = s.sorq := by
  simp [opBody]
@[simp] theorem opBody_soPin (op : AluOp) (f : OpFields) (s : State) : (opBody op f s).soPin = s.soPin := by
  simp [opBody]
@[simp] theorem opBody_hostBus (op : AluOp) (f : OpFields) (s : State) : (opBody op f s).hostBus = s.hostBus := by
  simp [opBody]
@[simp] theorem opBody_siShift (op : AluOp) (f : OpFields) (s : State) : (opBody op f s).siShift = s.siShift := by
  simp [opBody]
@[simp] theorem opBody_siCount (op : AluOp) (f : OpFields) (s : State) : (opBody op f s).siCount = s.siCount := by
  simp [opBody]
@[simp] theorem opBody_soShift (op : AluOp) (f : OpFields) (s : State) : (opBody op f s).soShift = s.soShift := by
  simp [opBody]
@[simp] theorem opBody_soCount (op : AluOp) (f : OpFields) (s : State) : (opBody op f s).soCount = s.soCount := by
  simp [opBody]
@[simp] theorem opBody_soLoaded (op : AluOp) (f : OpFields) (s : State) : (opBody op f s).soLoaded = s.soLoaded := by
  simp [opBody]
@[simp] theorem opBody_intPrev (op : AluOp) (f : OpFields) (s : State) : (opBody op f s).intPrev = s.intPrev := by
  simp [opBody]
@[simp] theorem opBody_schedule (op : AluOp) (f : OpFields) (s : State) : (opBody op f s).schedule = s.schedule := by
  simp [opBody]

end Sys2Proof.Machine
end

