-- ==== Sys2Proof/Laws/Ops.lean ====
section
/-! SUPPORT. What each shared operation can do, said once: the value of every field a transfer, the ALU step and the
body of an OP or RT instruction write, and the inversion of each form of execution. -/

namespace Sys2Proof.Machine

/-! ### The transfer -/

theorem writeDst_a (s : State) (dst : Dst) (v : Word) :
    (s.writeDst dst v).a = if dst = .a then v else s.a := by cases dst <;> simp [State.writeDst]

theorem writeDst_b (s : State) (dst : Dst) (v : Word) :
    (s.writeDst dst v).b = if dst = .b then v else s.b := by cases dst <;> simp [State.writeDst]

theorem writeDst_tr (s : State) (dst : Dst) (v : Word) :
    (s.writeDst dst v).tr = if dst = .tr then v else s.tr := by cases dst <;> simp [State.writeDst]

theorem writeDst_trb (s : State) (dst : Dst) (v : Word) :
    (s.writeDst dst v).trb = if dst = .trb then v else s.trb := by cases dst <;> simp [State.writeDst]

theorem writeDst_dp (s : State) (dst : Dst) (v : Word) :
    (s.writeDst dst v).dp = if dst = .dp then v.extractLsb' 0 8 else s.dp := by cases dst <;> simp [State.writeDst]

theorem writeDst_rp (s : State) (dst : Dst) (v : Word) :
    (s.writeDst dst v).rp = if dst = .rp then v.extractLsb' 0 10 else s.rp := by cases dst <;> simp [State.writeDst]

theorem writeDst_dr (s : State) (dst : Dst) (v : Word) :
    (s.writeDst dst v).dr = if dst = .dr then v else s.dr := by cases dst <;> simp [State.writeDst]

theorem writeDst_so (s : State) (dst : Dst) (v : Word) :
    (s.writeDst dst v).so = if dst = .som then v else if dst = .sol then rev16 v else s.so := by
  cases dst <;> simp [State.writeDst, State.writeSO]

theorem writeDst_soAck (s : State) (dst : Dst) (v : Word) :
    (s.writeDst dst v).soAck = if dst = .som ∨ dst = .sol then true else s.soAck := by
  cases dst <;> simp [State.writeDst, State.writeSO]

theorem writeDst_k (s : State) (dst : Dst) (v : Word) :
    (s.writeDst dst v).k = if dst = .k ∨ dst = .klr then v else if dst = .klm then s.ramAt s.dpK else s.k := by
  cases dst <;> simp [State.writeDst]

theorem writeDst_l (s : State) (dst : Dst) (v : Word) :
    (s.writeDst dst v).l = if dst = .l ∨ dst = .klm then v else if dst = .klr then s.ro else s.l := by
  cases dst <;> simp [State.writeDst]

theorem writeDst_ram (s : State) (dst : Dst) (v : Word) :
    (s.writeDst dst v).ram = if dst = .mem then (s.writeRam s.dp v).ram else s.ram := by
  cases dst <;> simp [State.writeDst]

theorem writeDst_sr (s : State) (dst : Dst) (v : Word) :
    (s.writeDst dst v).sr =
      if dst = .sr then (s.writeSR v).sr else if dst = .dr then setBit srRQM s.sr else s.sr := by
  cases dst <;> simp [State.writeDst]

theorem writeDst_drq (s : State) (dst : Dst) (v : Word) :
    (s.writeDst dst v).drq = if dst = .dr then s.drq || s.srBit srDMA else s.drq := by
  cases dst <;> simp [State.writeDst, State.requestHost]

theorem writeDst_siMixed (s : State) (dst : Dst) (v : Word) :
    (s.writeDst dst v).siMixed = if dst = .sr then (s.writeSR v).siMixed else s.siMixed := by
  cases dst <;> simp [State.writeDst]

theorem writeDst_intPending (s : State) (dst : Dst) (v : Word) :
    (s.writeDst dst v).intPending = if dst = .sr then (s.writeSR v).intPending else s.intPending := by
  cases dst <;> simp [State.writeDst]

theorem writeDst_intLatched (s : State) (dst : Dst) (v : Word) :
    (s.writeDst dst v).intLatched = if dst = .sr then (s.writeSR v).intLatched else s.intLatched := by
  cases dst <;> simp [State.writeDst]

theorem srcEffect_sr (s : State) (src : Src) :
    (s.srcEffect src).sr = if src = .dr then setBit srRQM s.sr else s.sr := by cases src <;> simp [State.srcEffect]

theorem srcEffect_drq (s : State) (src : Src) :
    (s.srcEffect src).drq = if src = .dr then s.drq || s.srBit srDMA else s.drq := by
  cases src <;> simp [State.srcEffect, State.requestHost]

theorem srcEffect_siAck (s : State) (src : Src) :
    (s.srcEffect src).siAck = if src = .sim ∨ src = .sil then false else s.siAck := by
  cases src <;> simp [State.srcEffect]

/-! ### SR bit by bit -/

theorem oneBit_getLsbD (i j : Nat) (h : i < 16) : (oneBit i).getLsbD j = decide (i = j) := by
  simp only [oneBit, BitVec.getLsbD_shiftLeft, BitVec.getLsbD_one]
  by_cases e : i = j
  · subst e; simp [h]
  · by_cases hl : j < i
    · simp [hl, e]
    · have : ¬ j - i = 0 := by omega
      simp [e, this]

theorem setBit_getLsbD (i j : Nat) (v : Word) (h : i < 16) :
    (setBit i v).getLsbD j = (v.getLsbD j || decide (i = j)) := by
  simp [setBit, oneBit_getLsbD i j h]

theorem clearBit_getLsbD (i j : Nat) (v : Word) (h : i < 16) :
    (clearBit i v).getLsbD j = (v.getLsbD j && !decide (i = j)) := by
  simp only [clearBit, BitVec.getLsbD_and, BitVec.getLsbD_not, oneBit_getLsbD i j h]
  by_cases hj : j < 16
  · simp [hj]
  · simp [BitVec.getLsbD_of_ge v j (by omega)]

/-! The places of the default layout, as numbers (log 6). -/

theorem srRQM_eq : srRQM = 15 := rfl
theorem srUF1_eq : srUF1 = 14 := rfl
theorem srUF0_eq : srUF0 = 13 := rfl
theorem srDRS_eq : srDRS = 12 := rfl
theorem srDMA_eq : srDMA = 11 := rfl
theorem srDRC_eq : srDRC = 10 := rfl
theorem srSOC_eq : srSOC = 9 := rfl
theorem srSIC_eq : srSIC = 8 := rfl
theorem srEI_eq : srEI = 7 := rfl
theorem srP1_eq : srP1 = 1 := rfl
theorem srP0_eq : srP0 = 0 := rfl

/-- The eleven places of SR_LAYOUT differ and lie in the word (R42). -/
theorem srLayout_places :
    [srRQM, srUF1, srUF0, srDRS, srDMA, srDRC, srSOC, srSIC, srEI, srP1, srP0].Nodup ∧
      ∀ i ∈ [srRQM, srUF1, srUF0, srDRS, srDMA, srDRC, srSOC, srSIC, srEI, srP1, srP0], i < 16 := by decide

theorem srWritable_getLsbD (j : Nat) :
    srWritable.getLsbD j = decide (j ∈ [srUF1, srUF0, srDMA, srDRC, srSOC, srSIC, srEI, srP1, srP0]) := by
  by_cases hj : j < 16
  · revert j; decide
  · rw [BitVec.getLsbD_of_ge _ j (by omega)]
    simp only [List.mem_cons, List.not_mem_nil, or_false]
    have := srLayout_places.2
    symm; rw [decide_eq_false_iff_not]
    rintro (rfl | rfl | rfl | rfl | rfl | rfl | rfl | rfl | rfl) <;> exact hj (this _ (by simp))

theorem srReadOnly_getLsbD (j : Nat) : srReadOnly.getLsbD j = decide (j ∈ [srRQM, srDRS]) := by
  by_cases hj : j < 16
  · revert j; decide
  · rw [BitVec.getLsbD_of_ge _ j (by omega)]
    have := srLayout_places.2
    simp only [List.mem_cons, List.not_mem_nil, or_false]
    symm; rw [decide_eq_false_iff_not]
    rintro (rfl | rfl) <;> exact hj (this _ (by simp))

/-- SR after `SrWrite(v)`, bit by bit (R217). -/
theorem srWritten_getLsbD (old v : Word) (j : Nat) :
    (srWritten old v).getLsbD j =
      if j = srDRS then old.getLsbD srDRS && !v.getLsbD srDRC
      else if j = srRQM then old.getLsbD srRQM
      else v.getLsbD j && srWritable.getLsbD j := by
  have hn : ∀ j, ((old &&& srReadOnly) ||| (v &&& srWritable)).getLsbD j =
      if j = srDRS then old.getLsbD srDRS else if j = srRQM then old.getLsbD srRQM
      else v.getLsbD j && srWritable.getLsbD j := by
    intro j
    rw [BitVec.getLsbD_or, BitVec.getLsbD_and, BitVec.getLsbD_and, srReadOnly_getLsbD]
    by_cases hs : j = srDRS
    · subst hs; simp [show srWritable.getLsbD srDRS = false by decide]
    · by_cases hr : j = srRQM
      · subst hr; simp [hs, show srWritable.getLsbD srRQM = false by decide]
      · simp [hs, hr]
  have hc : ((old &&& srReadOnly) ||| (v &&& srWritable)).getLsbD srDRC = v.getLsbD srDRC := by
    rw [hn, if_neg (by decide), if_neg (by decide), show srWritable.getLsbD srDRC = true by decide, Bool.and_true]
  simp only [srWritten, hc]
  by_cases h : v.getLsbD srDRC
  · simp only [h, if_true, clearBit_getLsbD srDRS j _ (by decide), hn]
    by_cases hs : j = srDRS
    · simp [hs]
    · simp [hs, Ne.symm hs]
  · simp only [h, Bool.false_eq_true, if_false, hn]
    simp

/-! ### The ALU step -/

theorem writeAcc_a (s : State) (x : Acc) (r : Word × Flags) :
    (s.writeAcc x r).a = if x = .a then r.1 else s.a := by cases x <;> simp [State.writeAcc]

theorem writeAcc_b (s : State) (x : Acc) (r : Word × Flags) :
    (s.writeAcc x r).b = if x = .b then r.1 else s.b := by cases x <;> simp [State.writeAcc]

theorem writeAcc_flagA (s : State) (x : Acc) (r : Word × Flags) :
    (s.writeAcc x r).flagA = if x = .a then r.2 else s.flagA := by cases x <;> simp [State.writeAcc]

theorem writeAcc_flagB (s : State) (x : Acc) (r : Word × Flags) :
    (s.writeAcc x r).flagB = if x = .b then r.2 else s.flagB := by cases x <;> simp [State.writeAcc]

/-- The whole ALU step of an operation other than NOP, but for the count of free values. -/
theorem aluStep_of_ne (s : State) (op : AluOp) (x : Acc) (p : Word) (h : op ≠ .nop) :
    s.aluStep op x p =
      { s.writeAcc x (s.aluResult op x p) with
        freeIndex := if drawsS1 op then s.freeIndex + 1 else s.freeIndex } := by
  cases op <;> first | exact absurd rfl h | (cases x <;> rfl)

theorem aluStep_a (s : State) (op : AluOp) (x : Acc) (p : Word) :
    (s.aluStep op x p).a = if x = .a ∧ op ≠ .nop then (s.aluResult op x p).1 else s.a := by
  by_cases h : op = .nop
  · subst h; simp [State.aluStep]
  · simp [aluStep_of_ne s op x p h, writeAcc_a, h]

theorem aluStep_b (s : State) (op : AluOp) (x : Acc) (p : Word) :
    (s.aluStep op x p).b = if x = .b ∧ op ≠ .nop then (s.aluResult op x p).1 else s.b := by
  by_cases h : op = .nop
  · subst h; simp [State.aluStep]
  · simp [aluStep_of_ne s op x p h, writeAcc_b, h]

theorem aluStep_flagA (s : State) (op : AluOp) (x : Acc) (p : Word) :
    (s.aluStep op x p).flagA = if x = .a ∧ op ≠ .nop then (s.aluResult op x p).2 else s.flagA := by
  by_cases h : op = .nop
  · subst h; simp [State.aluStep]
  · simp [aluStep_of_ne s op x p h, writeAcc_flagA, h]

theorem aluStep_flagB (s : State) (op : AluOp) (x : Acc) (p : Word) :
    (s.aluStep op x p).flagB = if x = .b ∧ op ≠ .nop then (s.aluResult op x p).2 else s.flagB := by
  by_cases h : op = .nop
  · subst h; simp [State.aluStep]
  · simp [aluStep_of_ne s op x p h, writeAcc_flagB, h]

theorem aluStep_freeIndex (s : State) (op : AluOp) (x : Acc) (p : Word) :
    (s.aluStep op x p).freeIndex = if drawsS1 op then s.freeIndex + 1 else s.freeIndex := by
  by_cases h : op = .nop
  · subst h; rfl
  · simp [aluStep_of_ne s op x p h]

/-- The ALU does not see what reading the source did to the handshakes. -/
@[simp] theorem aluResult_srcEffect (s : State) (src : Src) (op : AluOp) (x : Acc) (p : Word) :
    (s.srcEffect src).aluResult op x p = s.aluResult op x p := by
  cases x <;>
    simp [State.aluResult, State.acc, State.flag, State.carryIn, other]

/-! ### The body of OP and RT (R130) -/

/-- The word on the bus. -/
abbrev State.bus (s : State) (f : OpFields) : Word := s.readSrc f.src

/-- The P input of an instruction. -/
abbrev State.pOf (s : State) (f : OpFields) : Word := s.pInput f.psel (s.bus f)

@[simp] theorem ramAt_congr (s t : State) (h : t.ram = s.ram) (i : RamAddr) : t.ramAt i = s.ramAt i := by
  simp [State.ramAt, h]

theorem opBody_a (op : AluOp) (f : OpFields) (s : State) :
    (opBody op f s).a =
      if f.dst = .a then s.bus f
      else if f.asl = .a ∧ op ≠ .nop then (s.aluResult op f.asl (s.pOf f)).1 else s.a := by
  simp [opBody, writeDst_a, aluStep_a]

theorem opBody_b (op : AluOp) (f : OpFields) (s : State) :
    (opBody op f s).b =
      if f.dst = .b then s.bus f
      else if f.asl = .b ∧ op ≠ .nop then (s.aluResult op f.asl (s.pOf f)).1 else s.b := by
  simp [opBody, writeDst_b, aluStep_b]

theorem opBody_flagA (op : AluOp) (f : OpFields) (s : State) :
    (opBody op f s).flagA =
      if f.asl = .a ∧ op ≠ .nop then (s.aluResult op f.asl (s.pOf f)).2 else s.flagA := by
  simp [opBody, aluStep_flagA]

theorem opBody_flagB (op : AluOp) (f : OpFields) (s : State) :
    (opBody op f s).flagB =
      if f.asl = .b ∧ op ≠ .nop then (s.aluResult op f.asl (s.pOf f)).2 else s.flagB := by
  simp [opBody, aluStep_flagB]

theorem opBody_tr (op : AluOp) (f : OpFields) (s : State) :
    (opBody op f s).tr = if f.dst = .tr then s.bus f else s.tr := by
  simp [opBody, writeDst_tr]

theorem opBody_trb (op : AluOp) (f : OpFields) (s : State) :
    (opBody op f s).trb = if f.dst = .trb then s.bus f else s.trb := by
  simp [opBody, writeDst_trb]

theorem opBody_dp (op : AluOp) (f : OpFields) (s : State) :
    (opBody op f s).dp = if f.dst = .dp then (s.bus f).extractLsb' 0 8 else dpNext f.dpl f.dphm s.dp := by
  simp only [opBody, State.stepPointers, multiply_dp, writeDst_dp]
  split <;> simp

theorem opBody_rp (op : AluOp) (f : OpFields) (s : State) :
    (opBody op f s).rp = if f.dst = .rp then (s.bus f).extractLsb' 0 10 else rpNext f.rpdcr s.rp := by
  simp only [opBody, State.stepPointers, multiply_rp, writeDst_rp]
  split <;> simp

theorem opBody_dr (op : AluOp) (f : OpFields) (s : State) :
    (opBody op f s).dr = if f.dst = .dr then s.bus f else s.dr := by
  simp [opBody, writeDst_dr]

theorem opBody_so (op : AluOp) (f : OpFields) (s : State) :
    (opBody op f s).so = if f.dst = .som then s.bus f else if f.dst = .sol then rev16 (s.bus f) else s.so := by
  simp [opBody, writeDst_so]

theorem opBody_soAck (op : AluOp) (f : OpFields) (s : State) :
    (opBody op f s).soAck = if f.dst = .som ∨ f.dst = .sol then true else s.soAck := by
  simp [opBody, writeDst_soAck]

theorem opBody_siAck (op : AluOp) (f : OpFields) (s : State) :
    (opBody op f s).siAck = if f.src = .sim ∨ f.src = .sil then false else s.siAck := by
  simp [opBody, srcEffect_siAck]

theorem opBody_k (op : AluOp) (f : OpFields) (s : State) :
    (opBody op f s).k =
      if f.dst = .k ∨ f.dst = .klr then s.bus f else if f.dst = .klm then s.ramAt s.dpK else s.k := by
  simp [opBody, writeDst_k, State.ramAt, State.dpK]

theorem opBody_l (op : AluOp) (f : OpFields) (s : State) :
    (opBody op f s).l =
      if f.dst = .l ∨ f.dst = .klm then s.bus f else if f.dst = .klr then s.ro else s.l := by
  simp [opBody, writeDst_l, State.ro, State.dromAt]

/-- The product registers follow the K and L the instruction leaves (R33). -/
theorem opBody_m (op : AluOp) (f : OpFields) (s : State) :
    (opBody op f s).m = productM (opBody op f s).k (opBody op f s).l := rfl

theorem opBody_n (op : AluOp) (f : OpFields) (s : State) :
    (opBody op f s).n = productN (opBody op f s).k (opBody op f s).l := rfl

theorem opBody_ram (op : AluOp) (f : OpFields) (s : State) :
    (opBody op f s).ram = if f.dst = .mem then (s.writeRam s.dp (s.bus f)).ram else s.ram := by
  simp [opBody, writeDst_ram, State.writeRam]

theorem opBody_freeIndex (op : AluOp) (f : OpFields) (s : State) :
    (opBody op f s).freeIndex = if drawsS1 op then s.freeIndex + 1 else s.freeIndex := by
  simp [opBody, aluStep_freeIndex]

theorem opBody_sr (op : AluOp) (f : OpFields) (s : State) :
    (opBody op f s).sr = (((s.srcEffect f.src).aluStep op f.asl (s.pOf f)).writeDst f.dst (s.bus f)).sr := rfl

theorem opBody_drq (op : AluOp) (f : OpFields) (s : State) :
    (opBody op f s).drq =
      if f.src = .dr ∨ f.dst = .dr then s.drq || s.srBit srDMA else s.drq := by
  have h : (setBit srRQM s.sr).getLsbD srDMA = s.sr.getLsbD srDMA := by
    rw [setBit_getLsbD _ _ _ (by decide), show decide (srRQM = srDMA) = false by decide, Bool.or_false]
  by_cases hs : f.src = .dr <;> by_cases hd : f.dst = .dr <;>
    simp [opBody, writeDst_drq, srcEffect_drq, hs, hd, State.srBit, srcEffect_sr, h]

/-! ### Inversion of execution -/

/-- Everything an OP instruction can do. -/
theorem runOp_cases {op : AluOp} {f : OpFields} {s : State} {o : Host.Outcome State Fault Refusal}
    (h : runOp op f s = o) :
    (forbidden f.src f.dst = true ∧ o = .fault .forbiddenTransfer) ∨
    (forbidden f.src f.dst = false ∧ s.overruns f.dst = true ∧ o = .fault .serialOutputOverrun) ∨
    (forbidden f.src f.dst = false ∧ s.overruns f.dst = false ∧ o = .next (opBody op f s).nextPc) := by
  subst h; unfold runOp; split
  · simp_all
  · split <;> simp_all

/-- Everything an RT instruction can do. -/
theorem runRt_cases {op : AluOp} {f : OpFields} {s : State} {o : Host.Outcome State Fault Refusal}
    (h : runRt op f s = o) :
    (forbidden f.src f.dst = true ∧ o = .fault .forbiddenTransfer) ∨
    (forbidden f.src f.dst = false ∧ s.stack = [] ∧ o = .fault .stackUnderflow) ∨
    (∃ ret rest, forbidden f.src f.dst = false ∧ s.stack = ret :: rest ∧ s.overruns f.dst = true ∧
      o = .fault .serialOutputOverrun) ∨
    (∃ ret rest, forbidden f.src f.dst = false ∧ s.stack = ret :: rest ∧ s.overruns f.dst = false ∧
      o = .next ((opBody op f s).returnTo ret rest)) := by
  subst h; unfold runRt; split
  · simp_all
  · split
    · simp_all
    · split <;> simp_all

/-- Everything an LD instruction can do. -/
theorem execLd_cases {id : Word} {dst : Dst} {s : State} {o : Host.Outcome State Fault Refusal}
    (h : execLd id dst s = o) :
    (s.overruns dst = true ∧ o = .fault .serialOutputOverrun) ∨
    (s.overruns dst = false ∧ o = .next (s.writeDst dst id).multiply.nextPc) := by
  subst h; unfold execLd; split <;> simp_all

/-- A jump: PC alone, and the product again. -/
theorem jumpIf_eq (c : Bool) (na : CodeAddr) (s : State) :
    jumpIf c na s =
      .next { s with pc := if c then na else s.pc + 1, m := productM s.k s.l, n := productN s.k s.l } := by
  cases c <;> rfl

/-- CALL: PC, the stack, and the product again. -/
theorem execCall_eq (na : CodeAddr) (s : State) :
    execCall na s =
      .next { s with
        pc := na
        stack := pushReturn (s.pc + 1) s.stack
        m := productM s.k s.l
        n := productN s.k s.l } := rfl

/-- Everything a core step can do. -/
theorem coreStep_cases {s : State} {o : Host.Outcome State Fault Refusal} (h : coreStep s = o) :
    (s.intPending = true ∧ o = .next s.takeInterrupt) ∨
    (s.intPending = false ∧ ∃ i, decode s.fetch = .ok i ∧ o = exec i s) ∨
    (s.intPending = false ∧ ∃ e, decode s.fetch = .error e ∧ o = .fault (decodeFault e)) := by
  subst h; unfold coreStep; split
  · simp_all
  · split <;> simp_all

/-- Everything a step can do: the core moves, or the agent the schedule names. -/
theorem step_cases {s : State} {o : Host.Outcome State Fault Refusal} (h : step s = o) :
    (s.schedule = [] ∧ o = coreStep s) ∨
    (∃ mv rest, s.schedule = mv :: rest ∧ o = runMove mv { s with schedule := rest }) := by
  subst h; unfold step; split <;> simp_all

/-! ### The serial sides, edge by edge -/

/-- A rising edge of SCK that takes a bit and does not complete the word (R342). -/
theorem sckRise_mid (s : State) (bit : Bool) (h : s.siCount + 1 < serialLen (s.srBit srSIC)) :
    s.sckRise false bit =
      { s with siShift := s.siShift.extractLsb' 0 15 ++ BitVec.ofBool bit, siCount := s.siCount + 1 } := by
  rw [State.sckRise, if_neg (by decide)]
  exact if_neg (Nat.not_le.mpr h)

/-- A rising edge of SCK that completes the word (R342, R346). -/
theorem sckRise_last (s : State) (bit : Bool) (h : serialLen (s.srBit srSIC) ≤ s.siCount + 1) :
    s.sckRise false bit =
      State.siComplete
        { s with siShift := s.siShift.extractLsb' 0 15 ++ BitVec.ofBool bit, siCount := s.siCount + 1 } := by
  rw [State.sckRise, if_neg (by decide)]
  exact if_pos h

/-- The falling edge of SCK that raises SORQ (R349). -/
theorem sckFall_announce (s : State) (soen : Bool) (hl : s.soLoaded = true) (hq : s.sorq = false) :
    s.sckFall soen = { s with sorq := true, soLoaded := false, soPin := none } := by
  simp [State.sckFall, hl, hq]

/-- A falling edge of SCK that sends a bit and does not end the word (R350). -/
theorem sckFall_mid (s : State) (hl : s.soLoaded = false) (hq : s.sorq = true) (hc : 1 < s.soCount) :
    s.sckFall false =
      { s with
        soPin := some s.soShift.msb
        soShift := s.soShift.extractLsb' 0 15 ++ (0 : BitVec 1)
        soCount := s.soCount - 1 } := by
  simp [State.sckFall, hl, hq, show s.soCount ≠ 0 by omega, show ¬ s.soCount - 1 = 0 by omega]

/-- The falling edge of SCK that sends the last bit (R350, R351). -/
theorem sckFall_last (s : State) (hl : s.soLoaded = false) (hq : s.sorq = true) (hc : s.soCount = 1) :
    s.sckFall false =
      State.soEnd
        { s with
          soPin := some s.soShift.msb
          soShift := s.soShift.extractLsb' 0 15 ++ (0 : BitVec 1)
          soCount := 0 } := by
  simp [State.sckFall, hl, hq, hc]

end Sys2Proof.Machine
end

