-- ==== Sys2Proof/Laws/Exec.lean ====
section
/-! SUPPORT. How `exec` reaches the shared operations: every instruction is one of five shapes; what a write of SR does. -/

namespace Sys2Proof.Machine

/-- An OP row runs `runOp`. -/
theorem exec_opInstr (op : AluOp) (f : OpFields) (s : State) : exec (opInstr op f) s = runOp op f s := by
  cases op <;> rfl

/-- An RT row runs `runRt`. -/
theorem exec_rtInstr (op : AluOp) (f : OpFields) (s : State) : exec (rtInstr op f) s = runRt op f s := by
  cases op <;> rfl

/-- No overrun where SO is free or not the destination. -/
theorem overruns_eq_false (s : State) (d : Dst) (h : Dst.serial d → s.soAck = false) : s.overruns d = false := by
  cases d <;> simp_all [State.overruns, Dst.serial]

/-- An overrun is a write of SO with SO ACK = 1. -/
theorem overruns_iff (s : State) (d : Dst) : s.overruns d = true ↔ Dst.serial d ∧ s.soAck = true := by
  cases d <;> simp [State.overruns, Dst.serial]

/-- An OP row in a ready state. -/
theorem exec_opInstr_ready (op : AluOp) (f : OpFields) (s : State) (h : s.ready f) :
    exec (opInstr op f) s = .next (opBody op f s).nextPc := by
  rw [exec_opInstr, runOp]; simp [h.1, overruns_eq_false s f.dst h.2]

/-- An RT row in a ready state with a return address. -/
theorem exec_rtInstr_ready (op : AluOp) (f : OpFields) (s : State) (ret : CodeAddr) (rest : List CodeAddr)
    (h : s.ready f) (hs : s.stack = ret :: rest) :
    exec (rtInstr op f) s = .next ((opBody op f s).returnTo ret rest) := by
  rw [exec_rtInstr, runRt]; simp [h.1, hs, overruns_eq_false s f.dst h.2]

/-- LD where SO is free or not the destination. -/
theorem exec_ld_ready (id : Word) (dst : Dst) (s : State) (h : Dst.serial dst → s.soAck = false) :
    exec (.ld id dst) s = .next (s.writeDst dst id).multiply.nextPc := by
  show execLd id dst s = _
  simp [execLd, overruns_eq_false s dst h]

/-- Every instruction runs OP, RT, LD, a jump on some condition, or CALL, with the fields of its form. -/
theorem exec_shape (i : Instr) (s : State) :
    (∃ op f, i.form = .op op f ∧ exec i s = runOp op f s) ∨
    (∃ op f, i.form = .rt op f ∧ exec i s = runRt op f s) ∨
    (∃ id dst, i.form = .ld id dst ∧ exec i s = execLd id dst s) ∨
    (∃ brch na c, i.form = .jp brch na ∧ exec i s = jumpIf c na s) ∨
    (∃ na, i.form = .jp .call na ∧ exec i s = execCall na s) := by
  cases i
  all_goals first
    | exact .inl ⟨_, _, rfl, rfl⟩
    | exact .inr (.inl ⟨_, _, rfl, rfl⟩)
    | exact .inr (.inr (.inl ⟨_, _, rfl, rfl⟩))
    | exact .inr (.inr (.inr (.inl ⟨_, _, _, rfl, rfl⟩)))
    | exact .inr (.inr (.inr (.inr ⟨_, rfl, rfl⟩)))

/-- Everything `SrWrite(v)` does to SR and to what depends on it (R217, R308, R346). -/
theorem writeSR_srWriteIs (s : State) (v : Word) : srWriteIs s v false (s.writeSR v) := by
  have bits : ∀ j, (srWritten s.sr v).getLsbD j =
      if j = srRQM then s.sr.getLsbD srRQM
      else if j = srDRS then s.sr.getLsbD srDRS && !v.getLsbD srDRC
      else v.getLsbD j && decide (j ∈ srPlaces) := by
    intro j
    rw [srWritten_getLsbD, srWritable_getLsbD]
    by_cases hr : j = srRQM
    · subst hr; simp [show ¬ srRQM = srDRS by decide]
    · by_cases hs : j = srDRS
      · simp [hs, show ¬ srDRS = srRQM by decide]
      · simp [srPlaces, hr, hs]
  have hei : (srWritten s.sr v).getLsbD srEI = v.getLsbD srEI := by
    rw [bits, if_neg (by decide), if_neg (by decide), show decide (srEI ∈ srPlaces) = true by decide, Bool.and_true]
  have hsic : (srWritten s.sr v).getLsbD srSIC = v.getLsbD srSIC := by
    rw [bits, if_neg (by decide), if_neg (by decide), show decide (srSIC ∈ srPlaces) = true by decide, Bool.and_true]
  unfold State.writeSR
  simp only [hei, hsic, srWriteIs, State.srBit]
  by_cases h : v.getLsbD srEI && s.intLatched
  · rw [if_pos h]
    rw [Bool.and_eq_true] at h
    refine ⟨fun j _ => ?_, by rw [h.1, h.2, Bool.and_self, Bool.or_true], by rw [h.1, h.2]; rfl, rfl⟩
    simp only
    rw [clearBit_getLsbD _ _ _ (by decide), bits, h.2]
    by_cases he : j = srEI
    · subst he; rw [if_neg (by decide), if_neg (by decide), if_neg (by decide), if_neg (by decide), if_pos rfl]; simp
    · simp [he, Ne.symm he]
  · rw [if_neg h]
    rw [Bool.not_eq_true] at h
    refine ⟨fun j _ => ?_, by rw [h, Bool.or_false], ?_, rfl⟩
    · rw [bits]
      by_cases he : j = srEI
      · subst he
        rw [if_neg (by decide), if_neg (by decide), if_neg (by decide), if_neg (by decide), if_pos rfl,
          show decide (srEI ∈ srPlaces) = true by decide]
        revert h; cases v.getLsbD srEI <;> cases s.intLatched <;> simp
      · simp [he]
    · revert h; cases v.getLsbD srEI <;> cases s.intLatched <;> simp

end Sys2Proof.Machine
end

