-- ==== Sys2Proof/Laws/Memory.lean ====
section
/-! SUPPORT. The laws of memory: a read after a write, and the canonical form kept by every memory operation. -/

namespace Sys2Proof.Machine

/-- An address below every listed one reads as blank. -/
theorem Memory.read_of_lt (sp : Space) (m : Memory) (addr : Nat) (h : ∀ p ∈ m, addr < p.1) :
    m.read sp addr = sp.blank := by
  induction m with
  | nil => rfl
  | cons p rest ih =>
    obtain ⟨x, u⟩ := p
    have hx : addr < x := h (x, u) (by simp)
    simp [Memory.read, Nat.ne_of_gt hx, ih (fun q hq => h q (by simp [hq]))]

/-- Every entry a write leaves was there or is the one written. -/
theorem Memory.mem_write (sp : Space) (m : Memory) (addr : Nat) (v : Byte) (p : Host.Cell)
    (h : p ∈ m.write sp addr v) : p ∈ m ∨ (p = (addr, v) ∧ v ≠ sp.blank) := by
  induction m with
  | nil =>
    simp only [Memory.write] at h
    split at h
    · simp at h
    · exact .inr ⟨by simpa using h, ‹_›⟩
  | cons q rest ih =>
    obtain ⟨x, u⟩ := q
    simp only [Memory.write] at h
    split at h
    · split at h
      · exact .inl h
      · rcases List.mem_cons.1 h with rfl | h
        · exact .inr ⟨rfl, ‹_›⟩
        · exact .inl h
    · split at h
      · split at h
        · exact .inl (by simp [h])
        · rcases List.mem_cons.1 h with rfl | h
          · exact .inr ⟨rfl, ‹_›⟩
          · exact .inl (by simp [h])
      · rcases List.mem_cons.1 h with rfl | h
        · exact .inl (by simp)
        · rcases ih h with h | h
          · exact .inl (by simp [h])
          · exact .inr h

/-- A write keeps the addresses strictly rising. -/
theorem Memory.write_sorted (sp : Space) (m : Memory) (addr : Nat) (v : Byte)
    (h : m.Pairwise (fun p q => p.1 < q.1)) : (m.write sp addr v).Pairwise (fun p q => p.1 < q.1) := by
  induction m with
  | nil => simp only [Memory.write]; split <;> simp
  | cons q rest ih =>
    obtain ⟨x, u⟩ := q
    obtain ⟨hx, hr⟩ := List.pairwise_cons.1 h
    simp only [Memory.write]
    split
    · split
      · exact h
      · refine List.pairwise_cons.2 ⟨fun p hp => ?_, h⟩
        rcases List.mem_cons.1 hp with rfl | hp
        · assumption
        · exact Nat.lt_trans ‹_› (hx p hp)
    · split
      · split
        · exact hr
        · subst_vars; exact List.pairwise_cons.2 ⟨hx, hr⟩
      · refine List.pairwise_cons.2 ⟨fun p hp => ?_, ih hr⟩
        rcases Memory.mem_write sp rest addr v p hp with hp | ⟨rfl, -⟩
        · exact hx p hp
        · simp only; omega

/-- A write keeps the canonical form. -/
theorem Memory.write_wf (sp : Space) (m : Memory) (addr : Nat) (v : Byte)
    (lo : sp.range.1 ≤ addr) (hi : addr < sp.range.2) (h : m.wf sp) : (m.write sp addr v).wf sp := by
  refine ⟨Memory.write_sorted sp m addr v h.1, fun p hp => ?_⟩
  rcases Memory.mem_write sp m addr v p hp with hp | ⟨rfl, hv⟩
  · exact h.2 p hp
  · exact ⟨hv, lo, hi⟩

/-- A read after a write. -/
theorem Memory.read_write (sp : Space) (m : Memory) (addr at' : Nat) (v : Byte)
    (h : m.Pairwise (fun p q => p.1 < q.1)) :
    (m.write sp addr v).read sp at' = if at' = addr then v else m.read sp at' := by
  induction m with
  | nil =>
    simp only [Memory.write]
    by_cases e : at' = addr <;> split <;> simp_all [Memory.read]
    exact fun h => absurd h.symm e
  | cons q rest ih =>
    obtain ⟨x, u⟩ := q
    obtain ⟨hx, hr⟩ := List.pairwise_cons.1 h
    simp only [Memory.write]
    split
    · have hb : Memory.read sp ((x, u) :: rest) addr = sp.blank :=
        Memory.read_of_lt sp _ addr fun p hp => by
          rcases List.mem_cons.1 hp with rfl | hp
          · assumption
          · exact Nat.lt_trans ‹_› (hx p hp)
      by_cases e : at' = addr
      · subst e; split <;> simp_all [Memory.read]
      · rw [if_neg e]
        split
        · rfl
        · rw [Memory.read, if_neg (fun h => e h.symm)]
    · split
      · subst_vars
        have hb : Memory.read sp rest x = sp.blank := Memory.read_of_lt sp _ x fun p hp => hx p hp
        by_cases e : at' = x
        · subst e; split <;> simp_all [Memory.read]
        · have e' : ¬ x = at' := fun h => e h.symm
          split <;> simp [Memory.read, e']
      · rw [Memory.read, ih hr, Memory.read]
        by_cases e : at' = addr
        · subst e
          rw [if_neg (fun h => ‹¬ at' = x› h.symm), if_pos rfl, if_pos rfl]
        · simp [e]

/-- Writing a word keeps the canonical form. -/
theorem Memory.writeWord_wf (sp : Space) (m : Memory) (addr : Nat) (v : Word)
    (lo : sp.range.1 ≤ addr) (hi : addr + 1 < sp.range.2) (h : m.wf sp) : (m.writeWord sp addr v).wf sp :=
  Memory.write_wf _ _ _ _ (by omega) hi (Memory.write_wf _ _ _ _ lo (by omega) h)

/-- A byte after a word written. -/
theorem Memory.read_writeWord (sp : Space) (m : Memory) (addr at' : Nat) (v : Word)
    (h : m.Pairwise (fun p q => p.1 < q.1)) :
    (m.writeWord sp addr v).read sp at' =
      if at' = addr + 1 then v.extractLsb' 8 8 else if at' = addr then v.extractLsb' 0 8 else m.read sp at' := by
  rw [Memory.writeWord, Memory.read_write _ _ _ _ _ (Memory.write_sorted _ _ _ _ h), Memory.read_write _ _ _ _ _ h]

/-- Writing RAM keeps its canonical form. -/
theorem writeRam_wf (s : State) (i : RamAddr) (v : Word) (h : s.ram.wf .ram) : (s.writeRam i v).ram.wf .ram := by
  have := i.isLt
  exact Memory.writeWord_wf _ _ _ _ (by simp [Space.range]) (by simp [Space.range, ramByte]; omega) h

/-- The two bytes of a word put together again. -/
theorem joinBytes (v : Word) : (v.extractLsb' 8 8 ++ v.extractLsb' 0 8 : Word) = v := by
  apply BitVec.eq_of_getLsbD_eq
  intro k hk
  rw [BitVec.getLsbD_append]
  by_cases h8 : k < 8
  · simp [h8]
  · simp [h8, show k - 8 < 8 by omega, Nat.add_sub_cancel' (Nat.not_lt.1 h8)]

/-- RAM word `j` after RAM word `i` is written. -/
theorem ramAt_writeRam (s : State) (i j : RamAddr) (v : Word) (h : s.ram.Pairwise (fun p q => p.1 < q.1)) :
    (s.writeRam i v).ramAt j = if j = i then v else s.ramAt j := by
  have hi := i.isLt
  have hj := j.isLt
  simp only [State.ramAt, State.writeRam, Memory.readWord, Memory.read_writeWord _ _ _ _ _ h, ramByte]
  by_cases e : j = i
  · subst e
    simp only [if_true, if_neg (show ¬ 2 * j.toNat = 2 * j.toNat + 1 by omega)]
    exact joinBytes v
  · have : j.toNat ≠ i.toNat := fun h => e (BitVec.eq_of_toNat_eq h)
    rw [if_neg (by omega), if_neg (by omega), if_neg (by omega), if_neg (by omega), if_neg e]

/-- Loading an instruction word keeps the ROM's canonical form. -/
theorem Memory.loadInstr_wf (m : Memory) (i : CodeAddr) (w : InstrWord) (h : m.wf .irom) :
    (m.loadInstr i w).wf .irom := by
  have := i.isLt
  unfold Memory.loadInstr
  refine Memory.write_wf _ _ _ _ (by simp [Space.range]) (by simp [Space.range, iromByte]; omega) ?_
  refine Memory.write_wf _ _ _ _ (by simp [Space.range]) (by simp [Space.range, iromByte]; omega) ?_
  exact Memory.write_wf _ _ _ _ (by simp [Space.range]) (by simp [Space.range, iromByte]; omega) h

/-- RAM full of free values is in canonical form. -/
theorem freeRam_wf (i : Nat) : (freeRam i).wf .ram := by
  have key : ∀ (l : List Nat), (∀ x ∈ l, x < 0x200) → ∀ m : Memory, m.wf .ram →
      (l.foldl (fun mem addr => mem.write .ram addr (Config.freeByte (i + addr))) m).wf .ram := by
    intro l
    induction l with
    | nil => exact fun _ _ h => h
    | cons x rest ih =>
      intro hl m hm
      exact ih (fun y hy => hl y (by simp [hy])) _
        (Memory.write_wf _ _ _ _ (by simp [Space.range]) (by simpa [Space.range] using hl x (by simp)) hm)
  exact key _ (fun x hx => by simpa using hx) [] ⟨List.Pairwise.nil, by simp⟩

end Sys2Proof.Machine
end

