-- ==== Sys2Proof/Laws/PerInstr.lean ====
section
/-! SUPPORT. The families of statements made for every instruction, one lemma per constructor. -/

namespace Sys2Proof

/-- The top two bits of the word of a form. -/
theorem encodeForm_typeBits (e : Encoding) (F : Form) : (encodeForm e F).extractLsb' 22 2 = F.typeCode e := by
  apply BitVec.eq_of_getLsbD_eq
  intro k hk
  have hk' : k = 0 ∨ k = 1 := by omega
  rcases hk' with rfl | rfl <;> cases F <;>
    simp only [encodeForm, encodeFields, Form.typeCode, BitVec.getLsbD_extractLsb', BitVec.getLsbD_append] <;> simp

/-- NA read back from its place in a JP word (R104). -/
theorem placeNa_extract (e : Encoding) (h : e.jpNaPos ≤ 2) (na : CodeAddr) :
    (placeNa e na).extractLsb' e.jpNaPos 11 = na := by
  apply BitVec.eq_of_getLsbD_eq
  intro j hj
  simp [placeNa, hj, show e.jpNaPos + j < 13 by omega]

/-- ID read back from its place in an LD word (R105). -/
theorem placeId_extract (e : Encoding) (h : 4 ≤ e.ldIdPos) (h' : e.ldIdPos ≤ 6) (id : Word) :
    (placeId e id).extractLsb' (e.ldIdPos - 4) 16 = id := by
  apply BitVec.eq_of_getLsbD_eq
  intro j hj
  simp [placeId, hj, show e.ldIdPos - 4 + j < 18 by omega]

namespace Laws.TypeBits

/-- The type bits D23 D22 of an instruction's word are those of its type, under every encoding (R101). -/
def Statement (i : Instr) : Prop := ∀ e : Encoding, (encodeWith e i).extractLsb' 22 2 = i.form.typeCode e

/-! One lemma per constructor. -/

theorem opNop (f : OpFields) : Statement (.opNop f) := fun _ => encodeForm_typeBits _ _
theorem opOr (f : OpFields) : Statement (.opOr f) := fun _ => encodeForm_typeBits _ _
theorem opAnd (f : OpFields) : Statement (.opAnd f) := fun _ => encodeForm_typeBits _ _
theorem opXor (f : OpFields) : Statement (.opXor f) := fun _ => encodeForm_typeBits _ _
theorem opSub (f : OpFields) : Statement (.opSub f) := fun _ => encodeForm_typeBits _ _
theorem opAdd (f : OpFields) : Statement (.opAdd f) := fun _ => encodeForm_typeBits _ _
theorem opSbb (f : OpFields) : Statement (.opSbb f) := fun _ => encodeForm_typeBits _ _
theorem opAdc (f : OpFields) : Statement (.opAdc f) := fun _ => encodeForm_typeBits _ _
theorem opDec (f : OpFields) : Statement (.opDec f) := fun _ => encodeForm_typeBits _ _
theorem opInc (f : OpFields) : Statement (.opInc f) := fun _ => encodeForm_typeBits _ _
theorem opCmp (f : OpFields) : Statement (.opCmp f) := fun _ => encodeForm_typeBits _ _
theorem opShr1 (f : OpFields) : Statement (.opShr1 f) := fun _ => encodeForm_typeBits _ _
theorem opShl1 (f : OpFields) : Statement (.opShl1 f) := fun _ => encodeForm_typeBits _ _
theorem opShl2 (f : OpFields) : Statement (.opShl2 f) := fun _ => encodeForm_typeBits _ _
theorem opShl4 (f : OpFields) : Statement (.opShl4 f) := fun _ => encodeForm_typeBits _ _
theorem opXchg (f : OpFields) : Statement (.opXchg f) := fun _ => encodeForm_typeBits _ _
theorem rtNop (f : OpFields) : Statement (.rtNop f) := fun _ => encodeForm_typeBits _ _
theorem rtOr (f : OpFields) : Statement (.rtOr f) := fun _ => encodeForm_typeBits _ _
theorem rtAnd (f : OpFields) : Statement (.rtAnd f) := fun _ => encodeForm_typeBits _ _
theorem rtXor (f : OpFields) : Statement (.rtXor f) := fun _ => encodeForm_typeBits _ _
theorem rtSub (f : OpFields) : Statement (.rtSub f) := fun _ => encodeForm_typeBits _ _
theorem rtAdd (f : OpFields) : Statement (.rtAdd f) := fun _ => encodeForm_typeBits _ _
theorem rtSbb (f : OpFields) : Statement (.rtSbb f) := fun _ => encodeForm_typeBits _ _
theorem rtAdc (f : OpFields) : Statement (.rtAdc f) := fun _ => encodeForm_typeBits _ _
theorem rtDec (f : OpFields) : Statement (.rtDec f) := fun _ => encodeForm_typeBits _ _
theorem rtInc (f : OpFields) : Statement (.rtInc f) := fun _ => encodeForm_typeBits _ _
theorem rtCmp (f : OpFields) : Statement (.rtCmp f) := fun _ => encodeForm_typeBits _ _
theorem rtShr1 (f : OpFields) : Statement (.rtShr1 f) := fun _ => encodeForm_typeBits _ _
theorem rtShl1 (f : OpFields) : Statement (.rtShl1 f) := fun _ => encodeForm_typeBits _ _
theorem rtShl2 (f : OpFields) : Statement (.rtShl2 f) := fun _ => encodeForm_typeBits _ _
theorem rtShl4 (f : OpFields) : Statement (.rtShl4 f) := fun _ => encodeForm_typeBits _ _
theorem rtXchg (f : OpFields) : Statement (.rtXchg f) := fun _ => encodeForm_typeBits _ _
theorem jmp (na : CodeAddr) : Statement (.jmp na) := fun _ => encodeForm_typeBits _ _
theorem call (na : CodeAddr) : Statement (.call na) := fun _ => encodeForm_typeBits _ _
theorem jnca (na : CodeAddr) : Statement (.jnca na) := fun _ => encodeForm_typeBits _ _
theorem jca (na : CodeAddr) : Statement (.jca na) := fun _ => encodeForm_typeBits _ _
theorem jncb (na : CodeAddr) : Statement (.jncb na) := fun _ => encodeForm_typeBits _ _
theorem jcb (na : CodeAddr) : Statement (.jcb na) := fun _ => encodeForm_typeBits _ _
theorem jnza (na : CodeAddr) : Statement (.jnza na) := fun _ => encodeForm_typeBits _ _
theorem jza (na : CodeAddr) : Statement (.jza na) := fun _ => encodeForm_typeBits _ _
theorem jnzb (na : CodeAddr) : Statement (.jnzb na) := fun _ => encodeForm_typeBits _ _
theorem jzb (na : CodeAddr) : Statement (.jzb na) := fun _ => encodeForm_typeBits _ _
theorem jnova0 (na : CodeAddr) : Statement (.jnova0 na) := fun _ => encodeForm_typeBits _ _
theorem jova0 (na : CodeAddr) : Statement (.jova0 na) := fun _ => encodeForm_typeBits _ _
theorem jnovb0 (na : CodeAddr) : Statement (.jnovb0 na) := fun _ => encodeForm_typeBits _ _
theorem jovb0 (na : CodeAddr) : Statement (.jovb0 na) := fun _ => encodeForm_typeBits _ _
theorem jnova1 (na : CodeAddr) : Statement (.jnova1 na) := fun _ => encodeForm_typeBits _ _
theorem jova1 (na : CodeAddr) : Statement (.jova1 na) := fun _ => encodeForm_typeBits _ _
theorem jnovb1 (na : CodeAddr) : Statement (.jnovb1 na) := fun _ => encodeForm_typeBits _ _
theorem jovb1 (na : CodeAddr) : Statement (.jovb1 na) := fun _ => encodeForm_typeBits _ _
theorem jnsa0 (na : CodeAddr) : Statement (.jnsa0 na) := fun _ => encodeForm_typeBits _ _
theorem jsa0 (na : CodeAddr) : Statement (.jsa0 na) := fun _ => encodeForm_typeBits _ _
theorem jnsb0 (na : CodeAddr) : Statement (.jnsb0 na) := fun _ => encodeForm_typeBits _ _
theorem jsb0 (na : CodeAddr) : Statement (.jsb0 na) := fun _ => encodeForm_typeBits _ _
theorem jnsa1 (na : CodeAddr) : Statement (.jnsa1 na) := fun _ => encodeForm_typeBits _ _
theorem jsa1 (na : CodeAddr) : Statement (.jsa1 na) := fun _ => encodeForm_typeBits _ _
theorem jnsb1 (na : CodeAddr) : Statement (.jnsb1 na) := fun _ => encodeForm_typeBits _ _
theorem jsb1 (na : CodeAddr) : Statement (.jsb1 na) := fun _ => encodeForm_typeBits _ _
theorem jdpl0 (na : CodeAddr) : Statement (.jdpl0 na) := fun _ => encodeForm_typeBits _ _
theorem jdpln0 (na : CodeAddr) : Statement (.jdpln0 na) := fun _ => encodeForm_typeBits _ _
theorem jdplf (na : CodeAddr) : Statement (.jdplf na) := fun _ => encodeForm_typeBits _ _
theorem jdplnf (na : CodeAddr) : Statement (.jdplnf na) := fun _ => encodeForm_typeBits _ _
theorem jnsiak (na : CodeAddr) : Statement (.jnsiak na) := fun _ => encodeForm_typeBits _ _
theorem jsiak (na : CodeAddr) : Statement (.jsiak na) := fun _ => encodeForm_typeBits _ _
theorem jnsoak (na : CodeAddr) : Statement (.jnsoak na) := fun _ => encodeForm_typeBits _ _
theorem jsoak (na : CodeAddr) : Statement (.jsoak na) := fun _ => encodeForm_typeBits _ _
theorem jnrqm (na : CodeAddr) : Statement (.jnrqm na) := fun _ => encodeForm_typeBits _ _
theorem jrqm (na : CodeAddr) : Statement (.jrqm na) := fun _ => encodeForm_typeBits _ _
theorem ld (id : Word) (dst : Dst) : Statement (.ld id dst) := fun _ => encodeForm_typeBits _ _
theorem pselRam : Statement .pselRam := fun _ => encodeForm_typeBits _ _
theorem pselIdb : Statement .pselIdb := fun _ => encodeForm_typeBits _ _
theorem pselM : Statement .pselM := fun _ => encodeForm_typeBits _ _
theorem pselN : Statement .pselN := fun _ => encodeForm_typeBits _ _
theorem aslA : Statement .aslA := fun _ => encodeForm_typeBits _ _
theorem aslB : Statement .aslB := fun _ => encodeForm_typeBits _ _
theorem dplNop : Statement .dplNop := fun _ => encodeForm_typeBits _ _
theorem dplInc : Statement .dplInc := fun _ => encodeForm_typeBits _ _
theorem dplDec : Statement .dplDec := fun _ => encodeForm_typeBits _ _
theorem dplClr : Statement .dplClr := fun _ => encodeForm_typeBits _ _
theorem dphm (m : BitVec 4) : Statement (.dphm m) := fun _ => encodeForm_typeBits _ _
theorem rpNop : Statement .rpNop := fun _ => encodeForm_typeBits _ _
theorem rpDec : Statement .rpDec := fun _ => encodeForm_typeBits _ _
theorem srcNon : Statement .srcNon := fun _ => encodeForm_typeBits _ _
theorem srcA : Statement .srcA := fun _ => encodeForm_typeBits _ _
theorem srcB : Statement .srcB := fun _ => encodeForm_typeBits _ _
theorem srcTr : Statement .srcTr := fun _ => encodeForm_typeBits _ _
theorem srcDp : Statement .srcDp := fun _ => encodeForm_typeBits _ _
theorem srcRp : Statement .srcRp := fun _ => encodeForm_typeBits _ _
theorem srcRo : Statement .srcRo := fun _ => encodeForm_typeBits _ _
theorem srcSgn : Statement .srcSgn := fun _ => encodeForm_typeBits _ _
theorem srcDr : Statement .srcDr := fun _ => encodeForm_typeBits _ _
theorem srcDrnf : Statement .srcDrnf := fun _ => encodeForm_typeBits _ _
theorem srcSr : Statement .srcSr := fun _ => encodeForm_typeBits _ _
theorem srcSim : Statement .srcSim := fun _ => encodeForm_typeBits _ _
theorem srcSil : Statement .srcSil := fun _ => encodeForm_typeBits _ _
theorem srcK : Statement .srcK := fun _ => encodeForm_typeBits _ _
theorem srcL : Statement .srcL := fun _ => encodeForm_typeBits _ _
theorem srcMem : Statement .srcMem := fun _ => encodeForm_typeBits _ _
theorem dstNon : Statement .dstNon := fun _ => encodeForm_typeBits _ _
theorem dstA : Statement .dstA := fun _ => encodeForm_typeBits _ _
theorem dstB : Statement .dstB := fun _ => encodeForm_typeBits _ _
theorem dstTr : Statement .dstTr := fun _ => encodeForm_typeBits _ _
theorem dstDp : Statement .dstDp := fun _ => encodeForm_typeBits _ _
theorem dstRp : Statement .dstRp := fun _ => encodeForm_typeBits _ _
theorem dstDr : Statement .dstDr := fun _ => encodeForm_typeBits _ _
theorem dstSr : Statement .dstSr := fun _ => encodeForm_typeBits _ _
theorem dstSol : Statement .dstSol := fun _ => encodeForm_typeBits _ _
theorem dstSom : Statement .dstSom := fun _ => encodeForm_typeBits _ _
theorem dstK : Statement .dstK := fun _ => encodeForm_typeBits _ _
theorem dstKlr : Statement .dstKlr := fun _ => encodeForm_typeBits _ _
theorem dstKlm : Statement .dstKlm := fun _ => encodeForm_typeBits _ _
theorem dstL : Statement .dstL := fun _ => encodeForm_typeBits _ _
theorem dstTrb : Statement .dstTrb := fun _ => encodeForm_typeBits _ _
theorem dstMem : Statement .dstMem := fun _ => encodeForm_typeBits _ _

end Laws.TypeBits

end Sys2Proof
end

