-- ==== Sys2Proof/Tests/Slice0.lean ====
section
/-! SUPPORT. The model's own tests: the checks of WellFormed, words written out from the spec's encodings, one step of
each instruction on the vectors of 95_test_vectors.md, and a witness for every statement with hypotheses. -/

namespace Sys2Proof.Tests

open Sys2Proof Sys2Proof.Machine

/-! ### Helpers -/

/-- The state an outcome goes on with. -/
def nextOf : Host.Outcome State Fault Refusal → Option State
  | .next t => some t
  | .fault _ => none
  | .refused _ => none

/-- The state after the instruction of a word. -/
def run (w : InstrWord) (s : State) : Option State :=
  match decode w with
  | .ok i => nextOf (exec i s)
  | .error _ => none

/-- A flag register in the order of the spec's tuples (S1, S0, C, Z, OV1, OV0). -/
def flags (s1 s0 c z ov1 ov0 : Bool) : Flags := { s1 := s1, s0 := s0, c := c, z := z, ov1 := ov1, ov0 := ov0 }

/-- The five flags a logic operation defines, in the same order. -/
def five (f : Flags) : List Bool := [f.s0, f.c, f.z, f.ov1, f.ov0]

/-- The operands of 95_test_vectors.md 2.2: AccA, AccB, CB. -/
def regs (q p : Word) (ci : Bool := false) : State :=
  { State.reset with a := q, b := p, flagB := flags false false ci false false false }

/-- AccA and FLAG A after a word. -/
def accFlags (w : InstrWord) (s : State) : Option (Word × Flags) := (run w s).map fun t => (t.a, t.flagA)

/-- AccA and the five defined flags after a word. -/
def accFive (w : InstrWord) (s : State) : Option (Word × List Bool) := (run w s).map fun t => (t.a, five t.flagA)

/-- PC after a word at 010H. -/
def pcAfter (w : InstrWord) (s : State) : Option CodeAddr := (run w { s with pc := 0x010 }).map State.pc

/-- A state with a RAM word and a data ROM word. -/
def withData (s : State) (dp : RamAddr) (v : Word) (rp : RomAddr) (u : Word) : State :=
  { s with dp := dp, rp := rp, ram := (s.writeRam dp v).ram, drom := s.drom.writeWord .drom (dromByte rp) u }

/-! ### WellFormed -/

theorem test_wf_refuses_forbidden :
    (Instr.opAdd { src := .k, dst := .klr }).wf = false ∧ (Instr.opAdd { src := .l, dst := .klr }).wf = false ∧
    (Instr.opAdd { src := .k, dst := .klm }).wf = false ∧ (Instr.rtOr { src := .l, dst := .klm }).wf = false ∧
    (Instr.rtNop { src := .mem, dst := .mem }).wf = false := by decide

theorem test_wf_refuses_second_names :
    (Instr.opNop { dpl := .inc }).wf = false ∧ (Instr.dphm 0).wf = false ∧ Instr.srcNon.wf = false ∧
    Instr.dstNon.wf = false ∧ Instr.dplNop.wf = false ∧ Instr.rpNop.wf = false ∧ Instr.pselRam.wf = false ∧
    Instr.aslA.wf = false := by decide

theorem test_wf_accepts_neighbours :
    (Instr.opNop { src := .k, dst := .k }).wf = true ∧ (Instr.opNop { src := .mem, dst := .klr }).wf = true ∧
    (Instr.rtNop { dpl := .inc }).wf = true ∧ (Instr.dphm 15).wf = true ∧ (Instr.opNop OpFields.zero).wf = true := by
  decide

/-! ### Decoding, each word written out from R102 to R115 -/

/-- The fields of word 15A314H (R137). -/
def someFields : OpFields :=
  { psel := .idb, asl := .b, dpl := .inc, dphm := 1, rpdcr := .dec, src := .a, dst := .dp }

/-- Every word of the list decodes to the instruction beside it. -/
def decodesTo (l : List (InstrWord × Instr)) : Bool := l.all fun p => decide (decode p.1 = .ok p.2)

/-- OP, 00 psel alu asl dpl dphm rpdcr src dst (R102). -/
theorem test_decode_op_a : decodesTo
    [(0x10A314, .opNop someFields), (0x11A314, .opOr someFields),
     (0x12A314, .opAnd someFields), (0x13A314, .opXor someFields),
     (0x14A314, .opSub someFields), (0x15A314, .opAdd someFields),
     (0x16A314, .opSbb someFields), (0x17A314, .opAdc someFields)] = true := by decide

/-- OP, the other eight operations (R102). -/
theorem test_decode_op_b : decodesTo
    [(0x18A314, .opDec someFields), (0x19A314, .opInc someFields),
     (0x1AA314, .opCmp someFields), (0x1BA314, .opShr1 someFields),
     (0x1CA314, .opShl1 someFields), (0x1DA314, .opShl2 someFields),
     (0x1EA314, .opShl4 someFields), (0x1FA314, .opXchg someFields)] = true := by decide

/-- RT, type code 01 (R103). -/
theorem test_decode_rt_a : decodesTo
    [(0x50A314, .rtNop someFields), (0x51A314, .rtOr someFields),
     (0x52A314, .rtAnd someFields), (0x53A314, .rtXor someFields),
     (0x54A314, .rtSub someFields), (0x55A314, .rtAdd someFields),
     (0x56A314, .rtSbb someFields), (0x57A314, .rtAdc someFields)] = true := by decide

/-- RT, the other eight operations (R103). -/
theorem test_decode_rt_b : decodesTo
    [(0x58A314, .rtDec someFields), (0x59A314, .rtInc someFields),
     (0x5AA314, .rtCmp someFields), (0x5BA314, .rtShr1 someFields),
     (0x5CA314, .rtShl1 someFields), (0x5DA314, .rtShl2 someFields),
     (0x5EA314, .rtShl4 someFields), (0x5FA314, .rtXchg someFields)] = true := by decide

/-- JP with NA = 123H (R241 to R253). -/
theorem test_decode_jp_a : decodesTo
    [(0xA0048C, .jmp 0x123), (0xA8048C, .call 0x123),
     (0x90048C, .jnca 0x123), (0x90448C, .jca 0x123),
     (0x90848C, .jncb 0x123), (0x90C48C, .jcb 0x123),
     (0x91048C, .jnza 0x123), (0x91448C, .jza 0x123),
     (0x91848C, .jnzb 0x123), (0x91C48C, .jzb 0x123),
     (0x92048C, .jnova0 0x123), (0x92448C, .jova0 0x123)] = true := by decide

/-- JP with NA = 123H (R254 to R265). -/
theorem test_decode_jp_b : decodesTo
    [(0x92848C, .jnovb0 0x123), (0x92C48C, .jovb0 0x123),
     (0x93048C, .jnova1 0x123), (0x93448C, .jova1 0x123),
     (0x93848C, .jnovb1 0x123), (0x93C48C, .jovb1 0x123),
     (0x94048C, .jnsa0 0x123), (0x94448C, .jsa0 0x123),
     (0x94848C, .jnsb0 0x123), (0x94C48C, .jsb0 0x123),
     (0x95048C, .jnsa1 0x123), (0x95448C, .jsa1 0x123)] = true := by decide

/-- JP with NA = 123H (R266 to R277). -/
theorem test_decode_jp_c : decodesTo
    [(0x95848C, .jnsb1 0x123), (0x95C48C, .jsb1 0x123),
     (0x96048C, .jdpl0 0x123), (0x96248C, .jdpln0 0x123),
     (0x96448C, .jdplf 0x123), (0x96648C, .jdplnf 0x123),
     (0x96848C, .jnsiak 0x123), (0x96C48C, .jsiak 0x123),
     (0x97048C, .jnsoak 0x123), (0x97448C, .jsoak 0x123),
     (0x97848C, .jnrqm 0x123), (0x97C48C, .jrqm 0x123)] = true := by decide

/-- LD (95_test_vectors.md 2.11). -/
theorem test_decode_ld_a : decodesTo
    [(0xC48D00, .ld 0x1234 .non), (0xC00001, .ld 0x0000 .a),
     (0xDFFFC1, .ld 0x7FFF .a), (0xC48D02, .ld 0x1234 .b),
     (0xC48D03, .ld 0x1234 .tr), (0xFFFFC4, .ld 0xFFFF .dp),
     (0xFFFFC5, .ld 0xFFFF .rp), (0xC03FC6, .ld 0x00FF .dr),
     (0xC02007, .ld 0x0080 .sr), (0xFFFFC7, .ld 0xFFFF .sr)] = true := by decide

/-- LD, the other destinations. -/
theorem test_decode_ld_b : decodesTo
    [(0xE00048, .ld 0x8001 .sol), (0xC00048, .ld 0x0001 .sol),
     (0xE00049, .ld 0x8001 .som), (0xD0000A, .ld 0x4000 .k),
     (0xD0000B, .ld 0x4000 .klr), (0xC8000C, .ld 0x2000 .klm),
     (0xC48D0D, .ld 0x1234 .l), (0xC48D0E, .ld 0x1234 .trb),
     (0xEAF34F, .ld 0xABCD .mem)] = true := by decide

/-- The SRC rows, each value in D7 to D4 (R113). -/
theorem test_decode_src : decodesTo
    [(0x000010, .srcA), (0x000020, .srcB),
     (0x000030, .srcTr), (0x000040, .srcDp),
     (0x000050, .srcRp), (0x000060, .srcRo),
     (0x000070, .srcSgn), (0x000080, .srcDr),
     (0x000090, .srcDrnf), (0x0000A0, .srcSr),
     (0x0000B0, .srcSim), (0x0000C0, .srcSil),
     (0x0000D0, .srcK), (0x0000E0, .srcL),
     (0x0000F0, .srcMem)] = true := by decide

/-- The DST rows, each value in D3 to D0 (R114). -/
theorem test_decode_dst : decodesTo
    [(0x000001, .dstA), (0x000002, .dstB),
     (0x000003, .dstTr), (0x000004, .dstDp),
     (0x000005, .dstRp), (0x000006, .dstDr),
     (0x000007, .dstSr), (0x000008, .dstSol),
     (0x000009, .dstSom), (0x00000A, .dstK),
     (0x00000B, .dstKlr), (0x00000C, .dstKlm),
     (0x00000D, .dstL), (0x00000E, .dstTrb),
     (0x00000F, .dstMem)] = true := by decide

/-- The P-SELECT, ASL, DPL, DPH.M and RPDCR rows (R107, R109 to R112). -/
theorem test_decode_fields : decodesTo
    [(0x100000, .pselIdb), (0x200000, .pselM),
     (0x300000, .pselN), (0x008000, .aslB),
     (0x002000, .dplInc), (0x004000, .dplDec),
     (0x006000, .dplClr), (0x000200, .dphm 1),
     (0x001E00, .dphm 15), (0x000100, .rpDec)] = true := by decide

/-- The rows of the zero field values name the all-zero word, which is NOP (log 18). -/
theorem test_decode_zero_rows :
    [Instr.pselRam, .aslA, .dplNop, .dphm 0, .rpNop, .srcNon, .dstNon].all (fun i => encode i == 0) = true ∧
      decode 0 = .ok (.opNop OpFields.zero) := by decide

/-- The refused words of 95_test_vectors.md 2.1 and 2.10. -/
theorem test_decode_refused :
    [0x3FFFFF, 0x7FFFFF, 0x0000DB, 0x0000EB, 0x0000DC, 0x0000EC, 0x0000FF, 0x4000DB].all
        (fun w => decide (decode w = .error .forbiddenTransfer)) = true ∧
    [0x800000, 0xA02000, 0xBFFFFC, 0x906000].all (fun w => decide (decode w = .error .reservedBranch)) = true ∧
    [0xA00001, 0xA00002, 0xA0048D, 0xC48D11, 0xC48D21, 0xFFFFFF].all
        (fun w => decide (decode w = .error .unusedBits)) = true := by decide

/-- The words of 24 bits as the opcode table numbers them: D0 is bit 0 of the first byte. -/
theorem test_decodeTableWord :
    decodeTableWord 24 0x15A314 = some (.opAdd someFields) ∧ decodeTableWord 24 0xA02000 = none := by decide

/-! ### OP: the ALU operations (95_test_vectors.md 2.2) -/

theorem test_op_nop :
    accFlags 0x100020 { regs 0x1234 0x5678 true with flagA := flags true false true false true false } =
      some (0x1234, flags true false true false true false) := by decide

theorem test_op_or :
    accFive 0x110020 (regs 0x8000 0x0001) =
      some (0x8001, [true, false, false, false, false]) := by decide

theorem test_op_and :
    accFive 0x120020 (regs 0xFF00 0x00FF) =
      some (0x0000, [false, false, true, false, false]) := by decide

theorem test_op_xor :
    accFive 0x130020 { regs 0xAAAA 0x5555 with flagA := flags true true true true true true } =
      some (0xFFFF, [true, false, false, false, false]) := by decide

theorem test_op_sub :
    accFlags 0x140020 (regs 0x8000 0x0001) =
      some (0x7FFF, flags false false false false true true) ∧
    accFlags 0x140020 (regs 0x0000 0x0001) =
      some (0xFFFF, flags true true true false false false) := by decide

theorem test_op_add :
    accFlags 0x150020 (regs 0x8000 0x8000) =
      some (0x0000, flags false false true true true true) ∧
    accFlags 0x150020 (regs 0xFFFF 0x0001) =
      some (0x0000, flags false false true true false false) := by decide

theorem test_op_sbb :
    accFlags 0x160020 (regs 0x8000 0x0000 true) =
      some (0x7FFF, flags false false false false true true) ∧
    accFlags 0x160020 (regs 0x0000 0xFFFF true) =
      some (0x0000, flags false false true true false false) := by decide

theorem test_op_adc :
    accFlags 0x170020 (regs 0x7FFF 0x0000 true) =
      some (0x8000, flags true true false false true true) ∧
    accFlags 0x170020 (regs 0xFFFF 0x0000 true) =
      some (0x0000, flags false false true true false false) := by decide

theorem test_op_dec :
    accFlags 0x080000 (regs 0x8000 0) =
      some (0x7FFF, flags false false false false true true) ∧
    accFlags 0x080000 (regs 0x0000 0) =
      some (0xFFFF, flags true true true false false false) := by decide

theorem test_op_inc :
    accFlags 0x090000 (regs 0x7FFF 0) =
      some (0x8000, flags true true false false true true) ∧
    accFlags 0x090000 (regs 0xFFFF 0) =
      some (0x0000, flags false false true true false false) := by decide

theorem test_op_cmp :
    accFive 0x0A0000 (regs 0x00FF 0) =
      some (0xFF00, [true, false, false, false, false]) := by decide

theorem test_op_shr1 :
    accFive 0x0B0000 (regs 0x8001 0) =
      some (0xC000, [true, true, false, false, false]) := by decide

theorem test_op_shl1 :
    accFive 0x0C0000 (regs 0x8001 0 true) =
      some (0x0003, [false, true, false, false, false]) := by decide

theorem test_op_shl2 :
    accFive 0x0D0000 (regs 0x1234 0) =
      some (0x48D3, [false, false, false, false, false]) := by decide

theorem test_op_shl4 :
    accFive 0x0E0000 (regs 0x1234 0) =
      some (0x234F, [false, false, false, false, false]) := by decide

theorem test_op_xchg :
    accFive 0x0F0000 (regs 0x0080 0) =
      some (0x8000, [true, false, false, false, false]) := by decide

/-- The other register's carry enters SHL1 on AccB (R148). -/
theorem test_op_shl1_carry :
    (run 0x0C8000 { State.reset with b := 1, flagB := flags false false true false false false }).map State.b =
      some 0x0002 := by decide

/-- The second overflow in the opposite direction clears OV1 and keeps S1 (R145, R146; example 2 of the source). -/
theorem test_op_add_second_overflow :
    accFlags 0x150020 { regs 0x900F 0x8001 with flagA := flags true true false false true true } =
      some (0x1010, flags true false true false false true) := by decide

/-! ### OP as a whole (95_test_vectors.md 2.4 to 2.8) -/

theorem test_op_transfer_wins :
    accFlags 0x150021 (regs 0x7FFF 0x0002) = some (0x0002, flags true true false false true true) := by decide

theorem test_op_old_values :
    (run 0x05201F { withData State.reset 0x2F 0x0001 0 0 with a := 0x0010 }).map
        (fun t => (t.a, t.ramAt 0x2F, t.ramAt 0x20, t.dp)) = some (0x0011, 0x0010, 0, 0x20) := by decide

theorem test_op_old_product :
    (run 0x25001A { State.reset with a := 0x2000, k := 0x4000, l := 0x4000, m := 0x2000 }).map
        (fun t => (t.a, t.k, t.m, t.n)) = some (0x4000, 0x2000, 0x1000, 0) := by decide

theorem test_op_old_sgn :
    (run 0x080073 { State.reset with a := 0x8000, flagA := flags true false false false false false }).map
        (fun t => (t.a, t.flagA, t.tr)) = some (0x7FFF, flags false false false false true true, 0x7FFF) := by decide

theorem test_op_pointers :
    (run 0x002800 { State.reset with dp := 0x0F }).map State.dp = some 0x40 ∧
    (run 0x007000 { State.reset with dp := 0x7C }).map State.dp = some 0xF0 ∧
    (run 0x005E00 { State.reset with dp := 0x00 }).map State.dp = some 0xFF ∧
    (run 0x006214 { State.reset with a := 0x1234, dp := 0xFF }).map State.dp = some 0x34 ∧
    (run 0x000115 { State.reset with a := 0xFFFF, rp := 0x010 }).map State.rp = some 0x3FF := by decide

theorem test_op_pc_wraps : (run 0x000000 { State.reset with pc := 0x7FF }).map State.pc = some 0 := by decide

theorem test_product :
    (productM 0x8000 0x8000, productN 0x8000 0x8000) = (0x8000, 0x0000) ∧
    (productM 0x7FFF 0x7FFF, productN 0x7FFF 0x7FFF) = (0x7FFE, 0x0002) ∧
    (productM 0x8000 0x7FFF, productN 0x8000 0x7FFF) = (0x8001, 0x0000) ∧
    (productM 0x0001 0xFFFF, productN 0x0001 0xFFFF) = (0xFFFF, 0xFFFE) := by decide

/-! ### The sources, each through @A (95_test_vectors.md 2.6) -/

theorem test_src_registers :
    (run 0x000001 { State.reset with trb := 0xBEEF }).map State.a = some 0xBEEF ∧
    (run 0x000021 { State.reset with b := 0x8000 }).map State.a = some 0x8000 ∧
    (run 0x000031 { State.reset with tr := 0x7777 }).map State.a = some 0x7777 ∧
    (run 0x000041 { State.reset with dp := 0xFF }).map State.a = some 0x00FF ∧
    (run 0x000051 { State.reset with rp := 0x3FF }).map State.a = some 0x03FF ∧
    (run 0x0000D1 { State.reset with k := 0x4000, l := 0x2000 }).map State.a = some 0x4000 ∧
    (run 0x0000E1 { State.reset with k := 0x4000, l := 0x2000 }).map State.a = some 0x2000 := by decide

theorem test_src_memories :
    (run 0x000061 (withData State.reset 0 0 0x3FF 0xC000)).map State.a = some 0xC000 ∧
    (run 0x0000F1 (withData State.reset 0xFF 0x00FE 0 0)).map State.a = some 0x00FE ∧
    (run 0x000071 State.reset).map State.a = some 0x8000 := by decide

theorem test_src_handshake :
    (run 0x000081 { State.reset with dr := 0x00A5, sr := 0x0800 }).map (fun t => (t.a, t.sr, t.drq)) =
      some (0x00A5, 0x8800, true) ∧
    (run 0x000091 { State.reset with dr := 0x00A5, sr := 0x0800 }).map (fun t => (t.a, t.sr, t.drq)) =
      some (0x00A5, 0x0800, false) ∧
    (run 0x0000A1 { State.reset with sr := 0xFB83 }).map State.a = some 0xFB83 := by decide

theorem test_src_serial :
    (run 0x0000B1 { State.reset with si := 0xA003, siAck := true }).map (fun t => (t.a, t.siAck)) =
      some (0xA003, false) ∧
    (run 0x0000C1 { State.reset with si := 0xA003, siAck := true }).map (fun t => (t.a, t.siAck)) =
      some (0xC005, false) := by decide

/-! ### The destinations, each from A (95_test_vectors.md 2.7) -/

theorem test_dst_registers :
    (run 0x000012 (regs 0x1234 0)).map State.b = some 0x1234 ∧ (run 0x000013 (regs 0x1234 0)).map State.tr = some 0x1234 ∧
    (run 0x000014 (regs 0x1234 0)).map State.dp = some 0x34 ∧ (run 0x000015 (regs 0xFFFF 0)).map State.rp = some 0x3FF ∧
    (run 0x00001E (regs 0xBEEF 0)).map State.trb = some 0xBEEF := by decide

theorem test_dst_dr :
    (run 0x000016 { regs 0x55AA 0 with sr := 0x0800 }).map (fun t => (t.dr, t.sr, t.drq)) =
      some (0x55AA, 0x8800, true) := by decide

theorem test_dst_sr :
    (run 0x000017 (regs 0xFFFF 0)).map State.sr = some 0x6F83 ∧
    (run 0x000017 { regs 0 0 with sr := 0xB080 }).map State.sr = some 0x9000 ∧
    (run 0x000017 { regs 0x0400 0 with sr := 0x9000 }).map State.sr = some 0x8400 ∧
    (run 0x000017 (regs 0x007C 0)).map State.sr = some 0 := by decide

theorem test_dst_so :
    (run 0x000018 (regs 0xA003 0)).map (fun t => (t.so, t.soAck)) = some (0xC005, true) ∧
    (run 0x000019 (regs 0xA003 0)).map (fun t => (t.so, t.soAck)) = some (0xA003, true) ∧
    run 0x000019 { regs 0xA003 0 with soAck := true } = none := by decide

theorem test_dst_multiplier :
    (run 0x0001FB (withData State.reset 0x02 0x1000 0x008 0x4000)).map (fun t => (t.k, t.l, t.rp, t.m)) =
      some (0x1000, 0x4000, 0x007, 0x0800) ∧
    (run 0x00001D { regs 0xC000 0 with k := 0x4000 }).map (fun t => (t.l, t.m, t.n)) = some (0xC000, 0xE000, 0) := by
  decide

theorem test_dst_klm :
    (run 0x0000FC { withData (withData State.reset 0x43 3 0 0) 0x03 2 0 0 with k := 9 }).map
        (fun t => (t.l, t.k, t.n)) = some (2, 3, 0x000C) ∧
    (run 0x0000FC { withData (withData State.reset 0x03 2 0 0) 0x43 3 0 0 with k := 9 }).map
        (fun t => (t.l, t.k, t.n)) = some (3, 3, 0x0012) := by decide

theorem test_dst_mem :
    (run 0x00201F { regs 0x1234 0 with dp := 0x0F }).map (fun t => (t.ramAt 0x0F, t.dp)) = some (0x1234, 0x00) := by
  decide

/-! ### RT (95_test_vectors.md 2.9): each operation does the work of OP and pops PC -/

theorem test_rt_or :
    (run 0x510020 { regs 0x8000 0x0001 with stack := [0x123, 0x055] }).map
      (fun t => (t.a, t.flagA.c, t.pc, t.stack)) = some (0x8001, false, 0x123, [0x055]) := by decide

theorem test_rt_and :
    (run 0x520020 { regs 0xFF00 0x00FF with stack := [0x123, 0x055] }).map
      (fun t => (t.a, t.flagA.c, t.pc, t.stack)) = some (0x0000, false, 0x123, [0x055]) := by decide

theorem test_rt_xor :
    (run 0x530020 { regs 0xAAAA 0x5555 with stack := [0x123, 0x055] }).map
      (fun t => (t.a, t.flagA.c, t.pc, t.stack)) = some (0xFFFF, false, 0x123, [0x055]) := by decide

theorem test_rt_sub :
    (run 0x540020 { regs 0x8000 0x0001 with stack := [0x123, 0x055] }).map
      (fun t => (t.a, t.flagA.c, t.pc, t.stack)) = some (0x7FFF, false, 0x123, [0x055]) := by decide

theorem test_rt_add :
    (run 0x550020 { regs 0x8000 0x8000 with stack := [0x123, 0x055] }).map
      (fun t => (t.a, t.flagA.c, t.pc, t.stack)) = some (0x0000, true, 0x123, [0x055]) := by decide

theorem test_rt_sbb :
    (run 0x560020 { regs 0x8000 0x0000 true with stack := [0x123, 0x055] }).map
      (fun t => (t.a, t.flagA.c, t.pc, t.stack)) = some (0x7FFF, false, 0x123, [0x055]) := by decide

theorem test_rt_adc :
    (run 0x570020 { regs 0x7FFF 0x0000 true with stack := [0x123, 0x055] }).map
      (fun t => (t.a, t.flagA.c, t.pc, t.stack)) = some (0x8000, false, 0x123, [0x055]) := by decide

theorem test_rt_dec :
    (run 0x480000 { regs 0x8000 0 with stack := [0x123, 0x055] }).map
      (fun t => (t.a, t.flagA.c, t.pc, t.stack)) = some (0x7FFF, false, 0x123, [0x055]) := by decide

theorem test_rt_inc :
    (run 0x490000 { regs 0x7FFF 0 with stack := [0x123, 0x055] }).map
      (fun t => (t.a, t.flagA.c, t.pc, t.stack)) = some (0x8000, false, 0x123, [0x055]) := by decide

theorem test_rt_cmp :
    (run 0x4A0000 { regs 0x00FF 0 with stack := [0x123, 0x055] }).map
      (fun t => (t.a, t.flagA.c, t.pc, t.stack)) = some (0xFF00, false, 0x123, [0x055]) := by decide

theorem test_rt_shr1 :
    (run 0x4B0000 { regs 0x8001 0 with stack := [0x123, 0x055] }).map
      (fun t => (t.a, t.flagA.c, t.pc, t.stack)) = some (0xC000, true, 0x123, [0x055]) := by decide

theorem test_rt_shl1 :
    (run 0x4C0000 { regs 0x8001 0 true with stack := [0x123, 0x055] }).map
      (fun t => (t.a, t.flagA.c, t.pc, t.stack)) = some (0x0003, true, 0x123, [0x055]) := by decide

theorem test_rt_shl2 :
    (run 0x4D0000 { regs 0x1234 0 with stack := [0x123, 0x055] }).map
      (fun t => (t.a, t.flagA.c, t.pc, t.stack)) = some (0x48D3, false, 0x123, [0x055]) := by decide

theorem test_rt_shl4 :
    (run 0x4E0000 { regs 0x1234 0 with stack := [0x123, 0x055] }).map
      (fun t => (t.a, t.flagA.c, t.pc, t.stack)) = some (0x234F, false, 0x123, [0x055]) := by decide

theorem test_rt_xchg :
    (run 0x4F0000 { regs 0x0080 0 with stack := [0x123, 0x055] }).map
      (fun t => (t.a, t.flagA.c, t.pc, t.stack)) = some (0x8000, false, 0x123, [0x055]) := by decide

theorem test_rt_nop :
    (run 0x400000 { State.reset with stack := [0x011], pc := 0x123 }).map (fun t => (t.pc, t.stack)) =
      some (0x011, []) ∧ exec (.rtNop OpFields.zero) State.reset = .fault .stackUnderflow := ⟨by decide, rfl⟩

theorem test_rt_moves :
    (run 0x4A201F { regs 0x00FF 0 with dp := 0x10, stack := [0x123, 0x055] }).map
        (fun t => (t.ramAt 0x10, t.a, five t.flagA, t.dp, t.pc)) =
      some (0x00FF, 0xFF00, [true, false, false, false, false], 0x11, 0x123) := by decide

/-! ### JP, taken and not taken (95_test_vectors.md 2.10) -/

/-- FLAG A with one flag set: 0 to 5 in the order of the tuples, 6 for none. -/
def oneFlag (n : Nat) : Flags := flags (n == 0) (n == 1) (n == 2) (n == 3) (n == 4) (n == 5)

/-- A word jumps to 123H in the first state and not in the second. -/
def jumpsOn (w : InstrWord) (s t : State) : Bool := pcAfter w s == some 0x123 && pcAfter w t == some 0x011

theorem test_jmp : pcAfter 0xA0048C State.reset = some 0x123 := by decide

theorem test_call :
    (run 0xA8048C { State.reset with pc := 0x7FF, stack := [0x040, 0x030, 0x020, 0x010] }).map
        (fun t => (t.pc, t.stack)) = some (0x123, [0x000, 0x040, 0x030, 0x020]) := by decide

theorem test_jnca : jumpsOn 0x90048C { State.reset with flagA := oneFlag 6 }
    { State.reset with flagA := oneFlag 2 } = true := by decide

theorem test_jca : jumpsOn 0x90448C { State.reset with flagA := oneFlag 2 }
    { State.reset with flagA := oneFlag 6 } = true := by decide

theorem test_jncb : jumpsOn 0x90848C { State.reset with flagB := oneFlag 6 }
    { State.reset with flagB := oneFlag 2 } = true := by decide

theorem test_jcb : jumpsOn 0x90C48C { State.reset with flagB := oneFlag 2 }
    { State.reset with flagB := oneFlag 6 } = true := by decide

theorem test_jnza : jumpsOn 0x91048C { State.reset with flagA := oneFlag 6 }
    { State.reset with flagA := oneFlag 3 } = true := by decide

theorem test_jza : jumpsOn 0x91448C { State.reset with flagA := oneFlag 3 }
    { State.reset with flagA := oneFlag 6 } = true := by decide

theorem test_jnzb : jumpsOn 0x91848C { State.reset with flagB := oneFlag 6 }
    { State.reset with flagB := oneFlag 3 } = true := by decide

theorem test_jzb : jumpsOn 0x91C48C { State.reset with flagB := oneFlag 3 }
    { State.reset with flagB := oneFlag 6 } = true := by decide

theorem test_jnova0 : jumpsOn 0x92048C { State.reset with flagA := oneFlag 6 }
    { State.reset with flagA := oneFlag 5 } = true := by decide

theorem test_jova0 : jumpsOn 0x92448C { State.reset with flagA := oneFlag 5 }
    { State.reset with flagA := oneFlag 6 } = true := by decide

theorem test_jnovb0 : jumpsOn 0x92848C { State.reset with flagB := oneFlag 6 }
    { State.reset with flagB := oneFlag 5 } = true := by decide

theorem test_jovb0 : jumpsOn 0x92C48C { State.reset with flagB := oneFlag 5 }
    { State.reset with flagB := oneFlag 6 } = true := by decide

theorem test_jnova1 : jumpsOn 0x93048C { State.reset with flagA := oneFlag 6 }
    { State.reset with flagA := oneFlag 4 } = true := by decide

theorem test_jova1 : jumpsOn 0x93448C { State.reset with flagA := oneFlag 4 }
    { State.reset with flagA := oneFlag 6 } = true := by decide

theorem test_jnovb1 : jumpsOn 0x93848C { State.reset with flagB := oneFlag 6 }
    { State.reset with flagB := oneFlag 4 } = true := by decide

theorem test_jovb1 : jumpsOn 0x93C48C { State.reset with flagB := oneFlag 4 }
    { State.reset with flagB := oneFlag 6 } = true := by decide

theorem test_jnsa0 : jumpsOn 0x94048C { State.reset with flagA := oneFlag 6 }
    { State.reset with flagA := oneFlag 1 } = true := by decide

theorem test_jsa0 : jumpsOn 0x94448C { State.reset with flagA := oneFlag 1 }
    { State.reset with flagA := oneFlag 6 } = true := by decide

theorem test_jnsb0 : jumpsOn 0x94848C { State.reset with flagB := oneFlag 6 }
    { State.reset with flagB := oneFlag 1 } = true := by decide

theorem test_jsb0 : jumpsOn 0x94C48C { State.reset with flagB := oneFlag 1 }
    { State.reset with flagB := oneFlag 6 } = true := by decide

theorem test_jnsa1 : jumpsOn 0x95048C { State.reset with flagA := oneFlag 6 }
    { State.reset with flagA := oneFlag 0 } = true := by decide

theorem test_jsa1 : jumpsOn 0x95448C { State.reset with flagA := oneFlag 0 }
    { State.reset with flagA := oneFlag 6 } = true := by decide

theorem test_jnsb1 : jumpsOn 0x95848C { State.reset with flagB := oneFlag 6 }
    { State.reset with flagB := oneFlag 0 } = true := by decide

theorem test_jsb1 : jumpsOn 0x95C48C { State.reset with flagB := oneFlag 0 }
    { State.reset with flagB := oneFlag 6 } = true := by decide

theorem test_jdpl0 : jumpsOn 0x96048C { State.reset with dp := 0x30 }
    { State.reset with dp := 0x31 } = true := by decide

theorem test_jdpln0 : jumpsOn 0x96248C { State.reset with dp := 0x31 }
    { State.reset with dp := 0x30 } = true := by decide

theorem test_jdplf : jumpsOn 0x96448C { State.reset with dp := 0x3F }
    { State.reset with dp := 0x30 } = true := by decide

theorem test_jdplnf : jumpsOn 0x96648C { State.reset with dp := 0x30 }
    { State.reset with dp := 0x3F } = true := by decide

theorem test_jnsiak : jumpsOn 0x96848C { State.reset with siAck := false }
    { State.reset with siAck := true } = true := by decide

theorem test_jsiak : jumpsOn 0x96C48C { State.reset with siAck := true }
    { State.reset with siAck := false } = true := by decide

theorem test_jnsoak : jumpsOn 0x97048C { State.reset with soAck := false }
    { State.reset with soAck := true } = true := by decide

theorem test_jsoak : jumpsOn 0x97448C { State.reset with soAck := true }
    { State.reset with soAck := false } = true := by decide

theorem test_jnrqm : jumpsOn 0x97848C { State.reset with sr := 0x0000 }
    { State.reset with sr := 0x8000 } = true := by decide

theorem test_jrqm : jumpsOn 0x97C48C { State.reset with sr := 0x8000 }
    { State.reset with sr := 0x0000 } = true := by decide

/-! ### LD (95_test_vectors.md 2.11) -/

theorem test_ld_registers :
    accFlags 0xC00001 { regs 0x1234 0 with flagA := flags false true false false false false } =
      some (0, flags false true false false false false) ∧
    (run 0xC48D02 State.reset).map State.b = some 0x1234 ∧ (run 0xFFFFC4 State.reset).map State.dp = some 0xFF ∧
    (run 0xFFFFC5 State.reset).map State.rp = some 0x3FF ∧ (run 0xFFFFC7 State.reset).map State.sr = some 0x6F83 ∧
    (run 0xC00048 State.reset).map State.so = some 0x8000 := by decide

theorem test_ld_multiplier :
    (run 0xD0000B (withData State.reset 0 0 0x008 0x4000)).map (fun t => (t.k, t.l, t.m)) =
      some (0x4000, 0x4000, 0x2000) ∧
    (run 0xC8000C { withData State.reset 0x43 0x4000 0 0 with dp := 0x03 }).map (fun t => (t.l, t.k, t.m)) =
      some (0x2000, 0x4000, 0x1000) := by decide

/-! ### The field-value rows -/

theorem test_field_rows :
    (nextOf (exec .dplDec { State.reset with dp := 0x30 })).map State.dp = some 0x3F ∧
    (nextOf (exec .dplInc { State.reset with dp := 0xFF })).map State.dp = some 0xF0 ∧
    (nextOf (exec .dplClr { State.reset with dp := 0x3A })).map State.dp = some 0x30 ∧
    (nextOf (exec (.dphm 15) { State.reset with dp := 0xA5 })).map State.dp = some 0x55 ∧
    (nextOf (exec .rpDec State.reset)).map State.rp = some 0x3FF ∧
    (nextOf (exec .srcDr State.reset)).map State.sr = some 0x8000 ∧
    (nextOf (exec .dstA { State.reset with trb := 0xBEEF })).map State.a = some 0xBEEF := by decide

/-! ### The interrupt (95_test_vectors.md 2.12) -/

/-- A state at 010H with EI = 1. -/
def enabled : State := { State.reset with sr := 0x0080, pc := 0x010 }

theorem test_interrupt_taken :
    (runFor 2 { enabled with schedule := [.intPin true, .core] }).map (fun t => (t.sr, t.pc, t.stack, t.intPending)) =
      some (0, 0x100, [0x010], false) := by decide

theorem test_interrupt_needs_edge :
    (runFor 1 { enabled with intPrev := true, schedule := [.intPin true] }).map (fun t => (t.sr, t.intPending)) =
      some (0x0080, false) := by decide

theorem test_interrupt_drops_oldest :
    (runFor 1 { enabled with pc := 0x050, intPending := true, stack := [0x040, 0x030, 0x020, 0x010] }).map State.stack =
      some [0x050, 0x040, 0x030, 0x020] := by decide

/-! ### The host and DMA (95_test_vectors.md 2.13) -/

theorem test_host_write_word :
    (runFor 2 { State.reset with
        dr := 0xAAAA, sr := 0x8000, schedule := [.host hostWritePins 0x34, .host hostWritePins 0x12] }).map
        (fun t => (t.dr, t.sr)) = some (0x1234, 0) := by decide

theorem test_host_read_byte :
    (runFor 1 { State.reset with dr := 0x1235, sr := 0x8400, schedule := [.host hostReadPins 0] }).map
        (fun t => (t.hostBus, t.sr)) = some (some 0x35, 0x0400) := by decide

theorem test_dma_read_word :
    (runFor 2 { State.reset with
        dr := 0xBEEF, sr := 0x8800, drq := true, schedule := [.host (dmaReadPins true false) 0, .host (dmaReadPins false true) 0] }).map
        (fun t => (t.hostBus, t.sr, t.drq)) = some (some 0xBE, 0x0800, false) := by decide

/-! ### The serial sides (95_test_vectors.md 2.14) -/

theorem test_serial_in_fifteen :
    (runFor 2 { State.reset with siShift := 0xD001, siCount := 14, schedule := [.sckRise true true, .sckRise false true] }).map
        (fun t => (t.siShift, t.siCount, t.siAck)) = some (0xA003, 15, false) := by decide

theorem test_serial_in_last_bit :
    (runFor 1 { State.reset with siShift := 0xD001, siCount := 15, schedule := [.sckRise false true] }).map
        (fun t => (t.si, t.siCount, t.siAck)) = some (0xA003, 0, true) := by decide

theorem test_serial_out_first_bit :
    (runFor 3 { State.reset with so := 0xC005, soAck := true, schedule := [.soLoad, .sckFall false, .sckFall false] }).map
        (fun t => (t.soPin, t.sorq, t.soCount, t.soAck)) = some (some true, true, 15, false) := by decide

/-! ### Reset (95_test_vectors.md 2.15) -/

theorem test_reset_in_mid_run :
    ((State.pinReset { State.reset with pc := 0x345, sr := 0xEF83, stack := [0x123], intPending := true, soCount := 9 }).pc,
     (State.pinReset { State.reset with pc := 0x345, sr := 0xEF83, stack := [0x123], intPending := true, soCount := 9 }).sr,
     (State.pinReset { State.reset with stack := [0x123], soCount := 9 }).stack) = (0, 0, []) := by decide

theorem test_reset_first_step : (run 0x0000A1 State.reset).map State.a = some 0 := by decide

/-! ### Witnesses: a state and operands that meet the hypotheses of each statement, at the boundaries of its clauses -/
/-- A state whose next step fetches a word. -/
def loaded (w : Nat) (s : State) : State := s.withFetchWord 24 w

/-- Fields with every value at its last code and no forbidden pair. -/
def lastFields : OpFields :=
  { psel := .n, asl := .b, dpl := .clr, dphm := 15, rpdcr := .dec, src := .mem, dst := .trb }

/-- The types in the other order, NA in D10 to D0, ID in D19 to D4: a legal encoding that is not the default. -/
def otherEncoding : Encoding :=
  { typeOp := 0b11, typeRt := 0b10, typeJp := 0b01, typeLd := 0b00, jpNaPos := 0, ldIdPos := 4 }

theorem test_witness_DecodeEncode :
    Config.encoding.legal ∧ otherEncoding.legal ∧
    (Instr.opNop OpFields.zero).wf = true ∧ (Instr.rtXchg lastFields).wf = true ∧ (Instr.jrqm 0x7FF).wf = true ∧
    (Instr.ld 0xFFFF .mem).wf = true ∧ (Instr.dphm 15).wf = true ∧ Instr.dstMem.wf = true := by decide

/-- Words written out for the other encoding: `01 : 100000000 : 00 : 123H`, `00 : 00 : 1234H : 0001`, OP and RT. -/
theorem test_decode_other_encoding :
    decodeWith otherEncoding 0x600123 = .ok (.jmp 0x123) ∧ decodeWith otherEncoding 0x012341 = .ok (.ld 0x1234 .a) ∧
    decodeWith otherEncoding 0xC00000 = .ok (.opNop OpFields.zero) ∧
    decodeWith otherEncoding 0x800000 = .ok (.rtNop OpFields.zero) ∧
    decodeWith otherEncoding 0x600923 = .error .unusedBits ∧ decodeWith otherEncoding 0x112341 = .error .unusedBits := by
  decide

theorem test_witness_EncodeDecode :
    decode 0xFFFFCF = .ok (.ld 0xFFFF .mem) ∧ decode 0x000000 = .ok (.opNop OpFields.zero) ∧
    decodeWith otherEncoding 0x600123 = .ok (.jmp 0x123) := by decide

theorem test_witness_StepRunsDecoded :
    (State.coreNext (loaded 0xC02007 State.reset) [] ∧ (loaded 0xC02007 State.reset).intPending = false ∧
      (loaded 0xC02007 State.reset).fetches (.ld 0x0080 .sr)) ∧
    State.coreNext { State.reset with schedule := [.core, .core] } [.core] := by decide

theorem test_witness_StepFaultsRefusedWord :
    State.coreNext State.reset [] ∧ State.reset.intPending = false ∧ decode State.reset.fetch = .error .unusedBits ∧
    decode (loaded 0x0000FF State.reset).fetch = .error .forbiddenTransfer := by decide

theorem test_witness_LoadedWordIsFetched : State.reset.irom.wf .irom ∧ (0x7FF : CodeAddr) ≠ State.reset.pc := by decide

theorem test_witness_InvariantKept :
    (loaded 0x650000 { State.reset with stack := [1, 2, 3, 4] }).Inv ∧
    ∃ t, step (loaded 0x650000 { State.reset with stack := [1, 2, 3, 4] }) = .next t ∧ t.stack = [2, 3, 4] :=
  ⟨by decide, _, rfl, rfl⟩

theorem test_witness_OutsideKept : ∃ t, exec .dplInc State.reset = .next t ∧ t.dp = 1 := ⟨_, rfl, rfl⟩

theorem test_witness_ProductOfInputs :
    ∃ t, exec (.ld 0x8000 .l) { State.reset with k := 0x8000 } = .next t ∧ t.k = 0x8000 ∧ t.l = 0x8000 :=
  ⟨_, rfl, rfl, rfl⟩

/-- The hypotheses of NopKeepsFlags, LogicResults, ShiftResults, ExchangeResult, AddResults, SubResults,
SignFreeAfterLogic, FlagsWhenTransferWins, OpFrame and DestinationRegisters. -/
theorem test_witness_ready :
    State.reset.ready OpFields.zero ∧ State.reset.ready lastFields ∧ State.reset.ready { src := .k, dst := .som } ∧
    State.ready { State.reset with soAck := true } { src := .k, dst := .k } := by decide

theorem test_witness_ready_every_destination :
    [Dst.non, .a, .b, .tr, .dp, .rp, .dr, .sr, .sol, .som, .k, .klr, .klm, .l, .trb, .mem].all
      (fun d => decide (State.reset.ready { src := .a, dst := d })) = true := by decide

/-- OverflowBySigns and PSelectInputs, on both accumulators. -/
theorem test_witness_other_destination :
    State.reset.ready { psel := .n, dst := .b } ∧ Dst.b ≠ accDst .a ∧ State.reset.ready { asl := .b, dst := .a } ∧
    Dst.a ≠ accDst .b := by decide

theorem test_witness_OpFrameMemory :
    State.reset.ready { dst := .mem } ∧ State.reset.ram.wf .ram ∧
    (2 : Nat) ≠ ramByte State.reset.dp ∧ (2 : Nat) ≠ ramByte State.reset.dp + 1 := by decide

/-- SourceDR and SourceStatusAndSerial: each of their sources may go with every destination. -/
theorem test_witness_sources_every_destination :
    [Src.dr, .drnf, .sr, .sim, .sil].all (fun src =>
      [Dst.non, .a, .b, .tr, .dp, .rp, .dr, .sr, .sol, .som, .k, .klr, .klm, .l, .trb, .mem].all
        (fun d => decide (State.reset.ready { src := src, dst := d }))) = true := by decide

/-- SourceRegisters: every source may go with DST = @TR. -/
theorem test_witness_sources (src : Src) : ∃ f : OpFields, f.dst = .tr ∧ f.src = src :=
  ⟨{ src := src, dst := .tr }, rfl, rfl⟩

/-- DestinationDR and DestinationSR, with a source that sets RQM beside and one that does not. -/
theorem test_witness_DestinationDR_SR :
    ({ src := .dr, dst := .dr } : OpFields).dst = .dr ∧ ({ src := .dr, dst := .sr } : OpFields).dst = .sr ∧
    ({ src := .a, dst := .sr } : OpFields).dst = .sr := by decide

theorem test_witness_DestinationSO :
    Dst.serial ({ dst := .som } : OpFields).dst ∧ Dst.serial ({ dst := .sol } : OpFields).dst ∧
    State.reset.soAck = false ∧ ({ State.reset with soAck := true } : State).soAck = true := by decide

theorem test_witness_DestinationMEM :
    ({ src := .a, dst := .mem } : OpFields).dst = .mem ∧ ({ src := .a, dst := .mem } : OpFields).src ≠ .mem ∧
    State.reset.ram.wf .ram ∧ (0xFF : RamAddr) ≠ State.reset.dp := by decide

/-- PointerDP, PointerRP and ReturnDoesOpWork, with and without a transfer to the pointers, with and without a return
address. -/
theorem test_witness_return :
    let s : State := { State.reset with stack := [0x123] }
    s.ready { dpl := .clr, dphm := 15, rpdcr := .dec } ∧ s.ready { dpl := .inc, dst := .dp } ∧
    s.ready { rpdcr := .dec, dst := .rp } ∧ s.stack = 0x123 :: [] ∧
    State.reset.ready { dpl := .dec, dphm := 15, rpdcr := .dec } ∧ State.reset.stack = [] := by decide

/-- JumpAndCall and CallThenReturn, with a free level and with none; the product hypothesis of the jumps and the field
rows. -/
theorem test_witness_jumps :
    State.reset.StackLegal ∧ State.reset.ProductLegal ∧ State.reset.stack.length < 4 ∧
    State.StackLegal { State.reset with stack := [1, 2, 3, 4] } ∧
    State.ProductLegal { State.reset with k := 0x8000, l := 0x8000, m := 0x8000 } := by decide

theorem test_witness_LdResults :
    (Dst.serial .som → State.reset.soAck = false) ∧ State.reset.ram.wf .ram ∧
    (Dst.serial .a → ({ State.reset with soAck := true } : State).soAck = false) := by decide

/-- LdResults and DestinationSR with DST = @SR: a latched edge is taken up, and a word that arrives is marked. -/
theorem test_ld_sr_latched :
    (run 0xC06007 { State.reset with intLatched := true, siCount := 3 }).map
        (fun t => (t.sr, t.intPending, t.intLatched, t.siMixed)) = some (0x0100, true, false, true) := by decide

theorem test_witness_FieldRows :
    [Instr.pselRam, .dphm 0, .dstNon].all (fun i => i ∈ [Instr.pselRam, .pselIdb, .pselM, .pselN, .aslA, .aslB, .dplNop,
      .dphm 0, .rpNop, .srcNon, .srcA, .srcB, .srcTr, .srcDp, .srcRp, .srcRo, .srcSgn, .srcDrnf, .srcSr, .srcK, .srcL,
      .srcMem, .dstNon]) = true ∧ State.reset.ProductLegal ∧ State.reset.soAck = false := by decide

/-- InterruptDetected: no edge, an edge with EI = 1, an edge with EI = 0. -/
theorem test_witness_InterruptDetected :
    let s : State := { enabled with schedule := [.intPin true] }
    s.schedule = .intPin true :: [] ∧ s.intPrev = false ∧ s.srBit srEI = true ∧
    State.srBit { s with sr := 0xFF7F } srEI = false ∧
    ¬ (({ s with intPrev := true } : State).intPrev = false ∧ true = true) := by decide

theorem test_witness_InterruptTaken :
    let s : State := { State.reset with intPending := true, stack := [1, 2, 3, 4] }
    s.coreNext [] ∧ s.intPending = true ∧ s.StackLegal ∧
    State.StackLegal { State.reset with intPending := true, stack := [1, 2, 3] } := by decide

/-- EnableAndRequestOnlyByTransfer, its first clause: LD @SR sets EI. -/
theorem test_witness_EnableByTransfer :
    ∃ t, step (loaded 0xC02007 State.reset) = .next t ∧ (loaded 0xC02007 State.reset).srBit srEI = false ∧
      t.srBit srEI = true := ⟨_, rfl, by decide, by decide⟩

/-- EnableAndRequestOnlyByTransfer, its second clause: SRC = DR sets RQM. -/
theorem test_witness_RequestByDR :
    ∃ t, step (loaded 0x000080 State.reset) = .next t ∧ (loaded 0x000080 State.reset).srBit srRQM = false ∧
      t.srBit srRQM = true := ⟨_, rfl, by decide, by decide⟩

theorem test_witness_FlagsOnlyByALU :
    ∃ t, step (loaded 0x080000 State.reset) = .next t ∧ t.flagA = flags true true true false false false :=
  ⟨_, rfl, by decide⟩

/-- HostCyclesOutsideDR: an idle cycle of each kind, a read of SR, an inhibited cycle of each kind. -/
theorem test_witness_HostCycles :
    let s (p : BusPins) : State := { State.reset with schedule := [.host p 0] }
    let idle : BusPins := { cs := true, a0 := true, dack := true, wr := false, rd := false }
    let both : BusPins := { cs := true, a0 := false, dack := false, wr := false, rd := false }
    (s idle).schedule = .host idle 0 :: [] ∧ (idle.cs = true ∧ idle.dack = true) ∧
    (s hostStatusPins).schedule = .host hostStatusPins 0 :: [] ∧
    (both.dack = false ∧ both.wr = both.rd) ∧
    step (s { cs := false, a0 := true, dack := true, wr := false, rd := true }) = .fault .inhibitedHostAccess ∧
    step (s { cs := false, a0 := false, dack := true, wr := true, rd := true }) = .next State.reset :=
  ⟨rfl, by decide, rfl, by decide, rfl, rfl⟩

/-- HostWritesDR and HostReadsDR: 8-bit mode, the first and the second byte of a word. -/
theorem test_witness_HostDR :
    let s (p : BusPins) (sr : Word) : State := { State.reset with sr := sr, schedule := [.host p 0xFF] }
    (s hostWritePins 0x8400).schedule = .host hostWritePins 0xFF :: [] ∧
    (s hostReadPins 0x8400).schedule = .host hostReadPins 0xFF :: [] ∧ (s hostReadPins 0x8400).srBit srDRC = true ∧
    (s hostReadPins 0x8000).srBit srDRC = false ∧ (s hostReadPins 0x8000).srBit srDRS = false ∧
    (s hostReadPins 0x9000).srBit srDRC = false ∧ (s hostReadPins 0x9000).srBit srDRS = true := by decide

theorem test_witness_HostWordRoundTrip :
    let s : State := { State.reset with
      schedule := [.host hostWritePins 0x34, .host hostWritePins 0x12, .host hostReadPins 0, .host hostReadPins 0] }
    s.srBit srDRC = false ∧ s.srBit srDRS = false ∧ (runFor 4 s).map State.hostBus = some (some 0x12) := by decide

theorem test_witness_SerialWordIn :
    let bits := List.replicate 15 false ++ [true]
    let s : State := { State.reset with schedule := bits.map (Move.sckRise false) }
    bits.length = 16 ∧ s.siCount = 0 ∧ s.siMixed = false ∧ s.srBit srSIC = false ∧
    s.schedule = bits.map (Move.sckRise false) := by decide

/-- SerialWordIn with SIC = 1, for either value of SI8_PLACEMENT, and a mixed word at its completing edge and before. -/
theorem test_witness_SerialWordIn_short :
    let bits := List.replicate 7 true ++ [false]
    let s : State := { State.reset with sr := 0x0100, schedule := bits.map (Move.sckRise false) }
    let mixed (n : Nat) : State := { State.reset with siCount := n, siMixed := true, schedule := [.sckRise false true] }
    (bits.length = 8 ∧ s.siCount = 0 ∧ s.siMixed = false ∧ s.srBit srSIC = true) ∧
    ((mixed 14).siMixed = true ∧ (mixed 14).siCount + 1 < 16 ∧ (mixed 14).srBit srSIC = false) ∧
    16 ≤ (mixed 15).siCount + 1 := by decide

theorem test_siWord_high (h : Config.si8Placement = .high) : siWord true 0x00A5 = 0xA500 := by simp [siWord, h]

theorem test_siWord_low (h : Config.si8Placement = .low) : siWord true 0xFFA5 = 0x00A5 := by simp [siWord, h]

theorem test_witness_SerialWordOut :
    let s (sr : Word) (n : Nat) : State := { State.reset with
      sr := sr
      soAck := true
      schedule := .soLoad :: List.replicate (n + 1) (.sckFall false) }
    (s 0 1).soAck = true ∧ (s 0 1).soCount = 0 ∧ (s 0 1).sorq = false ∧ (s 0 1).soLoaded = false ∧
    (s 0 1).srBit srSOC = false ∧ (s 0x0200 8).srBit srSOC = true ∧
    (s 0 1).schedule = .soLoad :: List.replicate 2 (.sckFall false) ∧
    (s 0x0200 8).schedule = .soLoad :: List.replicate 9 (.sckFall false) ∧
    (s 0 16).schedule = .soLoad :: List.replicate 17 (.sckFall false) := by decide

theorem test_soSelect_low (h : Config.so8Select = .low) : soSelect true 0x12A5 = 0xA500 := by simp [soSelect, h]

theorem test_witness_SerialPaused_NextWord :
    let s : State := { State.reset with soAck := true, sorq := true, soCount := 1 }
    s.soLoaded = false ∧ s.sorq = true ∧ s.soCount = 1 ∧ s.soAck = true ∧ s.srBit srSOC = false ∧
    State.srBit { s with sr := 0x0200 } srSOC = true := by decide

theorem test_witness_ResetAnyTime :
    ({ enabled with schedule := [.reset, .core] } : State).schedule = .reset :: [.core] := by decide

end Sys2Proof.Tests
end

section
/-! PROOFS. The decoder and the encoder of words and forms: codes of the field values, the four formats, the types. -/

namespace Sys2Proof

/-! ### The codes of the field values (R107 to R115) -/

@[simp] theorem PSel.ofCode_code (p : PSel) : PSel.ofCode p.code = p := by cases p <;> rfl
@[simp] theorem PSel.code_ofCode : ∀ c : BitVec 2, (PSel.ofCode c).code = c := by decide
@[simp] theorem AluOp.ofCode_code (op : AluOp) : AluOp.ofCode op.code = op := by cases op <;> rfl
@[simp] theorem AluOp.code_ofCode : ∀ c : BitVec 4, (AluOp.ofCode c).code = c := by decide
@[simp] theorem Acc.ofCode_code (acc : Acc) : Acc.ofCode acc.code = acc := by cases acc <;> rfl
@[simp] theorem Acc.code_ofCode : ∀ c : BitVec 1, (Acc.ofCode c).code = c := by decide
@[simp] theorem DplOp.ofCode_code (op : DplOp) : DplOp.ofCode op.code = op := by cases op <;> rfl
@[simp] theorem DplOp.code_ofCode : ∀ c : BitVec 2, (DplOp.ofCode c).code = c := by decide
@[simp] theorem RpOp.ofCode_code (op : RpOp) : RpOp.ofCode op.code = op := by cases op <;> rfl
@[simp] theorem RpOp.code_ofCode : ∀ c : BitVec 1, (RpOp.ofCode c).code = c := by decide
@[simp] theorem Src.ofCode_code (src : Src) : Src.ofCode src.code = src := by cases src <;> rfl
@[simp] theorem Src.code_ofCode : ∀ c : BitVec 4, (Src.ofCode c).code = c := by decide
@[simp] theorem Dst.ofCode_code (dst : Dst) : Dst.ofCode dst.code = dst := by cases dst <;> rfl
@[simp] theorem Dst.code_ofCode : ∀ c : BitVec 4, (Dst.ofCode c).code = c := by decide
@[simp] theorem Brch.ofCode_code (brch : Brch) : Brch.ofCode brch.code = some brch := by cases brch <;> rfl

theorem Brch.code_of_ofCode {c : BitVec 9} {brch : Brch} (h : Brch.ofCode c = some brch) : brch.code = c := by
  simpa using List.find?_some h

/-- BRCH names no branch exactly at the values outside Table 4-11 (R116). -/
theorem Brch.ofCode_eq_none_iff (c : BitVec 9) :
    Brch.ofCode c = none ↔ c.toNat ∉ Brch.all.map (fun brch => brch.code.toNat) := by
  simp [Brch.ofCode, List.find?_eq_none, BitVec.toNat_inj]

theorem forbidden_ofCode_iff : ∀ s d : BitVec 4, forbidden (.ofCode s) (.ofCode d) = true ↔
    (s.toNat, d.toNat) ∈ [(13, 11), (14, 11), (13, 12), (14, 12), (15, 15)] := by decide

/-! ### OP and RT words: the eight fields (R102, R103) -/

theorem bitVec_append_inj {m n : Nat} {a c : BitVec m} {b d : BitVec n} (h : a ++ b = c ++ d) : a = c ∧ b = d := by
  constructor
  · simpa [BitVec.extractLsb'_append_eq_left] using congrArg (BitVec.extractLsb' n m) h
  · simpa [BitVec.extractLsb'_append_eq_right] using congrArg (BitVec.extractLsb' 0 n) h

theorem encodeFields_inj {type type' : BitVec 2} {alu alu' : AluOp} {f f' : OpFields}
    (h : encodeFields type alu f = encodeFields type' alu' f') : alu = alu' ∧ f = f' := by
  obtain ⟨h, hdst⟩ := bitVec_append_inj h
  obtain ⟨h, hsrc⟩ := bitVec_append_inj h
  obtain ⟨h, hrpdcr⟩ := bitVec_append_inj h
  obtain ⟨h, hdphm⟩ := bitVec_append_inj h
  obtain ⟨h, hdpl⟩ := bitVec_append_inj h
  obtain ⟨h, hasl⟩ := bitVec_append_inj h
  obtain ⟨h, halu⟩ := bitVec_append_inj h
  obtain ⟨-, hpsel⟩ := bitVec_append_inj h
  obtain ⟨psel, asl, dpl, dphm, rpdcr, src, dst⟩ := f
  obtain ⟨psel', asl', dpl', dphm', rpdcr', src', dst'⟩ := f'
  rw [OpFields.mk.injEq]
  exact ⟨Function.LeftInverse.injective AluOp.ofCode_code halu,
    Function.LeftInverse.injective PSel.ofCode_code hpsel, Function.LeftInverse.injective Acc.ofCode_code hasl,
    Function.LeftInverse.injective DplOp.ofCode_code hdpl, hdphm,
    Function.LeftInverse.injective RpOp.ofCode_code hrpdcr, Function.LeftInverse.injective Src.ofCode_code hsrc,
    Function.LeftInverse.injective Dst.ofCode_code hdst⟩

/-- A word is put together again from its type and its eight fields. -/
theorem encodeFields_fieldsOf (w : InstrWord) : encodeFields (w.extractLsb' 22 2) (aluOf w) (fieldsOf w) = w := by
  simp only [encodeFields, aluOf, fieldsOf, PSel.code_ofCode, AluOp.code_ofCode, Acc.code_ofCode, DplOp.code_ofCode,
    RpOp.code_ofCode, Src.code_ofCode, Dst.code_ofCode]
  iterate 8 rw [BitVec.extractLsb'_append_extractLsb'_eq_extractLsb' (by rfl)]
  exact BitVec.extractLsb'_eq_self

theorem decodeFields_encodeFields (type : BitVec 2) (alu : AluOp) (f : OpFields)
    (h : forbidden f.src f.dst = false) : decodeFields (encodeFields type alu f) = .ok (alu, f) := by
  obtain ⟨halu, hf⟩ := encodeFields_inj (encodeFields_fieldsOf (encodeFields type alu f))
  simp [decodeFields, halu, hf, h]

theorem decodeFields_eq_ok {w : InstrWord} {p : AluOp × OpFields} (h : decodeFields w = .ok p) :
    encodeFields (w.extractLsb' 22 2) p.1 p.2 = w ∧ forbidden p.2.src p.2.dst = false := by
  simp only [decodeFields] at h
  split at h <;> cases h
  next hf => exact ⟨encodeFields_fieldsOf w, by simpa using hf⟩

theorem decodeFields_eq_error_iff (w : InstrWord) (r : DecodeError) :
    decodeFields w = .error r ↔ forbidden (fieldsOf w).src (fieldsOf w).dst = true ∧ r = .forbiddenTransfer := by
  cases h : forbidden (fieldsOf w).src (fieldsOf w).dst <;> simp [decodeFields, h, @eq_comm _ r]

/-! ### NA and ID among the bits left over (R104, R105, R117) -/

/-- A field of `k` bits at bit `p` is all there is of `x` exactly when every bit outside it is 0. -/
theorem eq_shiftLeft_extractLsb'_iff {n : Nat} (x : BitVec n) (p k : Nat) :
    x = (x.extractLsb' p k).zeroExtend n <<< p ↔ ∀ j < n, j < p ∨ p + k ≤ j → x.getLsbD j = false := by
  rw [BitVec.eq_of_getLsbD_eq_iff]
  refine forall₂_congr fun j hj => ?_
  by_cases hlo : j < p
  · simp [hlo]
  · have hadd : p + (j - p) = j := by omega
    by_cases hhi : p + k ≤ j
    · simp [hlo, hhi, hj, show ¬ j - p < k by omega]
    · simp [hlo, hhi, hj, hadd, show j - p < k by omega]

/-- Some bit of D12 to D0 outside NA is set (R117). -/
def UnusedNa (e : Encoding) (w : InstrWord) : Prop :=
  ∃ j, j < 13 ∧ (j < e.jpNaPos ∨ e.jpNaPos + 11 ≤ j) ∧ w.getLsbD j = true

/-- Some bit of D21 to D4 outside ID is set (R117). -/
def UnusedId (e : Encoding) (w : InstrWord) : Prop :=
  ∃ j, 4 ≤ j ∧ j < 22 ∧ (j < e.ldIdPos ∨ e.ldIdPos + 16 ≤ j) ∧ w.getLsbD j = true

theorem eq_placeNa_iff {e : Encoding} (h : e.legal) (w : InstrWord) :
    w.extractLsb' 0 13 = placeNa e (w.extractLsb' e.jpNaPos 11) ↔ ¬ UnusedNa e w := by
  obtain ⟨-, hna, -, -⟩ := h
  have hfield : (w.extractLsb' 0 13).extractLsb' e.jpNaPos 11 = w.extractLsb' e.jpNaPos 11 := by
    apply BitVec.eq_of_getLsbD_eq
    intro j hj
    simp [hj, show e.jpNaPos + j < 13 by omega]
  rw [placeNa, ← hfield, eq_shiftLeft_extractLsb'_iff, UnusedNa]
  simp only [not_exists, not_and, Bool.not_eq_true]
  refine forall₂_congr fun j hj => ?_
  simp [hj]

theorem eq_placeId_iff {e : Encoding} (h : e.legal) (w : InstrWord) :
    w.extractLsb' 4 18 = placeId e (w.extractLsb' e.ldIdPos 16) ↔ ¬ UnusedId e w := by
  obtain ⟨-, -, hlo, hhi⟩ := h
  have hfield : (w.extractLsb' 4 18).extractLsb' (e.ldIdPos - 4) 16 = w.extractLsb' e.ldIdPos 16 := by
    apply BitVec.eq_of_getLsbD_eq
    intro j hj
    simp [hj, show e.ldIdPos - 4 + j < 18 by omega, show 4 + (e.ldIdPos - 4 + j) = e.ldIdPos + j by omega]
  rw [placeId, ← hfield, eq_shiftLeft_extractLsb'_iff, UnusedId]
  simp only [not_exists, not_and, Bool.not_eq_true]
  constructor
  · intro hzero j h4 h22 hout
    have := hzero (j - 4) (by omega) (by omega)
    simpa [show j - 4 < 18 by omega, show 4 + (j - 4) = j by omega] using this
  · intro hzero j hj hout
    simpa [hj] using hzero (4 + j) (by omega) (by omega) (by omega)

/-! ### JP and LD words (R104, R105) -/

theorem decodeJp_encodeForm {e : Encoding} (h : e.legal) (brch : Brch) (na : CodeAddr) :
    decodeJp e (encodeForm e (.jp brch na)) = .ok (.jp brch na) := by
  have hlow : (encodeForm e (.jp brch na)).extractLsb' 0 13 = placeNa e na := BitVec.extractLsb'_append_eq_right
  have hna : (encodeForm e (.jp brch na)).extractLsb' e.jpNaPos 11 = na := by
    obtain ⟨-, hpos, -, -⟩ := h
    rw [encodeForm, BitVec.extractLsb'_append_eq_of_add_le (by omega), placeNa_extract e hpos]
  have hbrch : (encodeForm e (.jp brch na)).extractLsb' 13 9 = brch.code := by
    rw [encodeForm, BitVec.extractLsb'_append_eq_of_le (Nat.le_refl 13)]
    exact BitVec.extractLsb'_append_eq_right
  simp [decodeJp, hlow, hna, hbrch]

theorem decodeLd_encodeForm {e : Encoding} (h : e.legal) (id : Word) (dst : Dst) :
    decodeLd e (encodeForm e (.ld id dst)) = .ok (.ld id dst) := by
  have hmid : (encodeForm e (.ld id dst)).extractLsb' 4 18 = placeId e id := by
    rw [encodeForm, BitVec.extractLsb'_append_eq_of_le (Nat.le_refl 4)]
    exact BitVec.extractLsb'_append_eq_right
  have hid : (encodeForm e (.ld id dst)).extractLsb' e.ldIdPos 16 = id := by
    obtain ⟨-, -, hlo, hhi⟩ := h
    rw [encodeForm, BitVec.extractLsb'_append_eq_of_le hlo, BitVec.extractLsb'_append_eq_of_add_le (by omega),
      placeId_extract e hlo hhi]
  have hdst : (encodeForm e (.ld id dst)).extractLsb' 0 4 = dst.code := BitVec.extractLsb'_append_eq_right
  simp [decodeLd, hmid, hid, hdst]

theorem decodeJp_eq_ok {e : Encoding} {w : InstrWord} {F : Form} (htype : w.extractLsb' 22 2 = e.typeJp)
    (h : decodeJp e w = .ok F) : encodeForm e F = w ∧ F.allowed = true := by
  simp only [decodeJp, ne_eq, ite_not] at h
  split at h
  next hna =>
    split at h <;> cases h
    next brch hbrch =>
      refine ⟨?_, rfl⟩
      rw [encodeForm, ← hna, Brch.code_of_ofCode hbrch, ← htype]
      iterate 2 rw [BitVec.extractLsb'_append_extractLsb'_eq_extractLsb' (by rfl)]
      exact BitVec.extractLsb'_eq_self
  next => cases h

theorem decodeLd_eq_ok {e : Encoding} {w : InstrWord} {F : Form} (htype : w.extractLsb' 22 2 = e.typeLd)
    (h : decodeLd e w = .ok F) : encodeForm e F = w ∧ F.allowed = true := by
  simp only [decodeLd, ne_eq, ite_not] at h
  split at h <;> cases h
  next hid =>
    refine ⟨?_, rfl⟩
    rw [encodeForm, ← hid, Dst.code_ofCode, ← htype]
    iterate 2 rw [BitVec.extractLsb'_append_extractLsb'_eq_extractLsb' (by rfl)]
    exact BitVec.extractLsb'_eq_self

theorem decodeJp_eq_error_iff {e : Encoding} (h : e.legal) (w : InstrWord) (r : DecodeError) :
    decodeJp e w = .error r ↔ (UnusedNa e w ∧ r = .unusedBits) ∨
      (¬ UnusedNa e w ∧ Brch.ofCode (w.extractLsb' 13 9) = none ∧ r = .reservedBranch) := by
  have hplace := eq_placeNa_iff h w
  by_cases hna : UnusedNa e w
  · simp [decodeJp, hplace, hna, @eq_comm _ r]
  · cases hbrch : Brch.ofCode (w.extractLsb' 13 9) <;> simp [decodeJp, hplace, hna, hbrch, @eq_comm _ r]

theorem decodeLd_eq_error_iff {e : Encoding} (h : e.legal) (w : InstrWord) (r : DecodeError) :
    decodeLd e w = .error r ↔ UnusedId e w ∧ r = .unusedBits := by
  have hplace := eq_placeId_iff h w
  by_cases hid : UnusedId e w <;> simp [decodeLd, hplace, hid, @eq_comm _ r]

/-! ### The four types (R101) -/

theorem types_distinct {e : Encoding} (h : e.legal) :
    (e.typeOp ≠ e.typeRt ∧ e.typeOp ≠ e.typeJp ∧ e.typeOp ≠ e.typeLd) ∧
      (e.typeRt ≠ e.typeJp ∧ e.typeRt ≠ e.typeLd) ∧ e.typeJp ≠ e.typeLd := by
  simpa using h.1

/-- Four distinct codes of two bits leave no fifth. -/
theorem type_cases {e : Encoding} (h : e.legal) (type : BitVec 2) :
    type = e.typeOp ∨ type = e.typeRt ∨ type = e.typeJp ∨ type = e.typeLd := by
  have := types_distinct h
  bv_omega

theorem decodeForm_of_typeOp {e : Encoding} {w : InstrWord} (htype : w.extractLsb' 22 2 = e.typeOp) :
    decodeForm e w = (decodeFields w).map fun p => .op p.1 p.2 := by
  simp [decodeForm, htype]

theorem decodeForm_of_typeRt {e : Encoding} (h : e.legal) {w : InstrWord} (htype : w.extractLsb' 22 2 = e.typeRt) :
    decodeForm e w = (decodeFields w).map fun p => .rt p.1 p.2 := by
  obtain ⟨⟨hop, -, -⟩, -, -⟩ := types_distinct h
  simp [decodeForm, htype, hop.symm]

theorem decodeForm_of_typeJp {e : Encoding} (h : e.legal) {w : InstrWord} (htype : w.extractLsb' 22 2 = e.typeJp) :
    decodeForm e w = decodeJp e w := by
  obtain ⟨⟨-, hop, -⟩, ⟨hrt, -⟩, -⟩ := types_distinct h
  simp [decodeForm, htype, hop.symm, hrt.symm]

theorem decodeForm_of_typeLd {e : Encoding} (h : e.legal) {w : InstrWord} (htype : w.extractLsb' 22 2 = e.typeLd) :
    decodeForm e w = decodeLd e w := by
  obtain ⟨⟨-, -, hop⟩, ⟨-, hrt⟩, hjp⟩ := types_distinct h
  simp [decodeForm, htype, hop.symm, hrt.symm, hjp.symm]

/-! ### Forms and words -/

theorem decodeForm_encodeForm {e : Encoding} (h : e.legal) {F : Form} (hF : F.allowed = true) :
    decodeForm e (encodeForm e F) = .ok F := by
  have htype := encodeForm_typeBits e F
  cases F with
  | op alu f =>
    rw [decodeForm_of_typeOp htype, encodeForm, decodeFields_encodeFields _ _ _ (by simpa [Form.allowed] using hF)]
    rfl
  | rt alu f =>
    rw [decodeForm_of_typeRt h htype, encodeForm, decodeFields_encodeFields _ _ _ (by simpa [Form.allowed] using hF)]
    rfl
  | jp brch na => rw [decodeForm_of_typeJp h htype, decodeJp_encodeForm h]
  | ld id dst => rw [decodeForm_of_typeLd h htype, decodeLd_encodeForm h]

theorem except_map_eq_ok {ε α β : Type} {g : α → β} {x : Except ε α} {b : β} (h : x.map g = .ok b) :
    ∃ y, x = .ok y ∧ g y = b := by
  cases x with
  | error r => cases h
  | ok y => exact ⟨y, rfl, Except.ok.inj h⟩

theorem except_map_eq_error_iff {ε α β : Type} (g : α → β) (x : Except ε α) (r : ε) :
    x.map g = .error r ↔ x = .error r := by
  cases x <;> simp [Except.map]

theorem encodeForm_of_decodeForm {e : Encoding} (h : e.legal) {w : InstrWord} {F : Form} (hF : decodeForm e w = .ok F) :
    encodeForm e F = w ∧ F.allowed = true := by
  rcases type_cases h (w.extractLsb' 22 2) with htype | htype | htype | htype
  · rw [decodeForm_of_typeOp htype] at hF
    obtain ⟨p, hp, rfl⟩ := except_map_eq_ok hF
    simpa [encodeForm, Form.allowed, htype] using decodeFields_eq_ok hp
  · rw [decodeForm_of_typeRt h htype] at hF
    obtain ⟨p, hp, rfl⟩ := except_map_eq_ok hF
    simpa [encodeForm, Form.allowed, htype] using decodeFields_eq_ok hp
  · exact decodeJp_eq_ok htype (decodeForm_of_typeJp h htype ▸ hF)
  · exact decodeLd_eq_ok htype (decodeForm_of_typeLd h htype ▸ hF)

/-- Which words are refused and why: the three refusals of R121 by type. -/
theorem decodeForm_eq_error_iff {e : Encoding} (h : e.legal) (w : InstrWord) (r : DecodeError) :
    decodeForm e w = .error r ↔
      ((w.extractLsb' 22 2 = e.typeOp ∨ w.extractLsb' 22 2 = e.typeRt) ∧
        forbidden (fieldsOf w).src (fieldsOf w).dst = true ∧ r = .forbiddenTransfer) ∨
      (w.extractLsb' 22 2 = e.typeJp ∧ ((UnusedNa e w ∧ r = .unusedBits) ∨
        (¬ UnusedNa e w ∧ Brch.ofCode (w.extractLsb' 13 9) = none ∧ r = .reservedBranch))) ∨
      (w.extractLsb' 22 2 = e.typeLd ∧ UnusedId e w ∧ r = .unusedBits) := by
  obtain ⟨⟨hOpRt, hOpJp, hOpLd⟩, ⟨hRtJp, hRtLd⟩, hJpLd⟩ := types_distinct h
  rcases type_cases h (w.extractLsb' 22 2) with htype | htype | htype | htype
  · rw [decodeForm_of_typeOp htype, except_map_eq_error_iff, decodeFields_eq_error_iff]
    simp [htype, hOpJp, hOpLd]
  · rw [decodeForm_of_typeRt h htype, except_map_eq_error_iff, decodeFields_eq_error_iff]
    simp [htype, hRtJp, hRtLd]
  · rw [decodeForm_of_typeJp h htype, decodeJp_eq_error_iff h]
    simp [htype, hOpJp.symm, hRtJp.symm, hJpLd]
  · rw [decodeForm_of_typeLd h htype, decodeLd_eq_error_iff h]
    simp [htype, hOpLd.symm, hRtLd.symm, hJpLd.symm]

end Sys2Proof
end

section
/-! PROOFS. The rows of the opcode table and the forms they name. -/

namespace Sys2Proof

/-! ### The row that names a form (log 18) -/

theorem Instr.wf_iff (i : Instr) : i.wf = true ↔ i.form.allowed = true ∧ i.canonical = true := by
  simp [Instr.wf]

/-- At most one field is written: the other six have their zero values. -/
def OpFields.Sole (f : OpFields) : Prop :=
  f = { OpFields.zero with psel := f.psel } ∨ f = { OpFields.zero with asl := f.asl } ∨
  f = { OpFields.zero with dpl := f.dpl } ∨ f = { OpFields.zero with dphm := f.dphm } ∨
  f = { OpFields.zero with rpdcr := f.rpdcr } ∨ f = { OpFields.zero with src := f.src } ∨
  f = { OpFields.zero with dst := f.dst }

theorem OpFields.sole_of_written {f : OpFields} (h : f.written = 1) : f.Sole := by
  have only_one : ∀ a b c d e f g : Nat, a + b + c + d + e + f + g = 1 →
      (b = 0 ∧ c = 0 ∧ d = 0 ∧ e = 0 ∧ f = 0 ∧ g = 0) ∨ (a = 0 ∧ c = 0 ∧ d = 0 ∧ e = 0 ∧ f = 0 ∧ g = 0) ∨
      (a = 0 ∧ b = 0 ∧ d = 0 ∧ e = 0 ∧ f = 0 ∧ g = 0) ∨ (a = 0 ∧ b = 0 ∧ c = 0 ∧ e = 0 ∧ f = 0 ∧ g = 0) ∨
      (a = 0 ∧ b = 0 ∧ c = 0 ∧ d = 0 ∧ f = 0 ∧ g = 0) ∨ (a = 0 ∧ b = 0 ∧ c = 0 ∧ d = 0 ∧ e = 0 ∧ g = 0) ∨
      (a = 0 ∧ b = 0 ∧ c = 0 ∧ d = 0 ∧ e = 0 ∧ f = 0) := by omega
  obtain ⟨psel, asl, dpl, dphm, rpdcr, src, dst⟩ := f
  simpa [OpFields.Sole, OpFields.zero] using only_one _ _ _ _ _ _ _ h

theorem soleField_of_not_sole {f : OpFields} (h : ¬ f.Sole) : soleField f = none := by
  simp only [OpFields.Sole, not_or] at h
  obtain ⟨hpsel, hasl, hdpl, hdphm, hrpdcr, hsrc, hdst⟩ := h
  rw [soleField, if_neg hpsel, if_neg hasl, if_neg hdpl, if_neg hdphm, if_neg hrpdcr, if_neg hsrc, if_neg hdst]

/-- The case split of `soleField`: one field at any value and the others zero, or fields that `soleField` finds no row for
because more than one is written. -/
theorem OpFields.sole_cases {P : OpFields → Prop} (psel : ∀ p, P { OpFields.zero with psel := p })
    (asl : ∀ acc, P { OpFields.zero with asl := acc }) (dpl : ∀ d, P { OpFields.zero with dpl := d })
    (dphm : ∀ m, P { OpFields.zero with dphm := m }) (rpdcr : ∀ r, P { OpFields.zero with rpdcr := r })
    (src : ∀ s, P { OpFields.zero with src := s }) (dst : ∀ d, P { OpFields.zero with dst := d })
    (other : ∀ f, soleField f = none → f.written ≠ 1 → P f) (f : OpFields) : P f := by
  by_cases sole : f.Sole
  · rcases sole with h | h | h | h | h | h | h <;> rw [h] <;> apply_assumption
  · exact other f (soleField_of_not_sole sole) fun h => sole (sole_of_written h)

theorem soleField_dphm (m : BitVec 4) :
    soleField { OpFields.zero with dphm := m } = if m = 0 then none else some (.dphm m) := by
  by_cases h : m = 0
  · subst h; rfl
  · simp [soleField, OpFields.zero, show m ≠ 0#4 from h]

theorem written_dphm (m : BitVec 4) : ({ OpFields.zero with dphm := m } : OpFields).written = if m = 0 then 0 else 1 := by
  simp [OpFields.written, OpFields.zero]

theorem soleField_eq_none_iff (f : OpFields) : soleField f = none ↔ f.written ≠ 1 := by
  induction f using OpFields.sole_cases with
  | psel p => cases p <;> decide
  | asl acc => cases acc <;> decide
  | dpl d => cases d <;> decide
  | dphm m => rw [soleField_dphm, written_dphm]; split <;> simp
  | rpdcr r => cases r <;> decide
  | src s => cases s <;> decide
  | dst d => cases d <;> decide
  | other f hnone hwritten => exact iff_of_true hnone hwritten

/-- The row `soleField` names has the word of these fields, and is not OP_NOP. -/
theorem soleField_eq_some {f : OpFields} {i : Instr} (h : soleField f = some i) :
    i.form = .op .nop f ∧ ∀ g, i ≠ .opNop g := by
  induction f using OpFields.sole_cases with
  | psel p => cases p <;> cases h <;> exact ⟨rfl, fun _ => Instr.noConfusion⟩
  | asl acc => cases acc <;> cases h; exact ⟨rfl, fun _ => Instr.noConfusion⟩
  | dpl d => cases d <;> cases h <;> exact ⟨rfl, fun _ => Instr.noConfusion⟩
  | dphm m =>
    rw [soleField_dphm] at h
    split at h <;> cases h
    exact ⟨rfl, fun _ => Instr.noConfusion⟩
  | rpdcr r => cases r <;> cases h; exact ⟨rfl, fun _ => Instr.noConfusion⟩
  | src s => cases s <;> cases h <;> exact ⟨rfl, fun _ => Instr.noConfusion⟩
  | dst d => cases d <;> cases h <;> exact ⟨rfl, fun _ => Instr.noConfusion⟩
  | other f hnone _ => rw [hnone] at h; cases h

theorem form_ofForm_opNop (f : OpFields) : (ofForm (.op .nop f)).form = .op .nop f := by
  cases h : soleField f with
  | none => rw [ofForm, h]; rfl
  | some i => rw [ofForm, h]; exact (soleField_eq_some h).1

/-- The row that names a form has that form. -/
theorem form_ofForm (F : Form) : (ofForm F).form = F := by
  cases F with
  | op alu f =>
    cases alu with
    | nop => exact form_ofForm_opNop f
    | _ => rfl
  | rt alu f => cases alu <;> rfl
  | jp brch na => cases brch <;> rfl
  | ld id dst => rfl

theorem ofForm_opNop_eq_iff (f : OpFields) : ofForm (.op .nop f) = .opNop f ↔ soleField f = none := by
  cases h : soleField f with
  | none => simp [ofForm, h]
  | some i => simpa [ofForm, h] using (soleField_eq_some h).2 f

/-- The canonical instructions are the rows that name their own forms. -/
theorem canonical_iff (i : Instr) : i.canonical = true ↔ ofForm i.form = i := by
  cases i with
  | opNop f =>
    calc (Instr.opNop f).canonical = true ↔ f.written ≠ 1 := bne_iff_ne
      _ ↔ soleField f = none := (soleField_eq_none_iff f).symm
      _ ↔ ofForm (.op .nop f) = .opNop f := (ofForm_opNop_eq_iff f).symm
  | dphm m =>
    simp only [Instr.canonical, Instr.form, ofForm, soleField_dphm, written_dphm]
    split <;> simp
  | pselRam | aslA | dplNop | rpNop | srcNon | dstNon => decide
  | _ => exact iff_of_true rfl rfl

end Sys2Proof
end

section
/-! PROOFS. The statements about the encoding. -/

namespace Sys2Proof

/-- Settles O1: a canonical instruction is the row of its form, and a legal encoding gives the form back. -/
theorem decodeEncode : Obligations.DecodeEncode := by
  refine ⟨by decide, fun e i he hwf => ?_⟩
  obtain ⟨hallowed, hcanonical⟩ := (Instr.wf_iff i).mp hwf
  calc decodeWith e (encodeWith e i) = (decodeForm e (encodeForm e i.form)).map ofForm := rfl
    _ = .ok (ofForm i.form) := by rw [decodeForm_encodeForm he hallowed]; rfl
    _ = .ok i := by rw [(canonical_iff i).mp hcanonical]

/-- Settles O2: the row that names the form of a word has that form, so its word is the word decoded. -/
theorem encodeDecode : Obligations.EncodeDecode := by
  intro e w i he hi
  obtain ⟨F, hF, rfl⟩ := except_map_eq_ok hi
  obtain ⟨hword, hallowed⟩ := encodeForm_of_decodeForm he hF
  have hform := form_ofForm F
  have hcanonical : (ofForm F).canonical = true := (canonical_iff _).mpr (by rw [hform])
  exact ⟨by rw [encodeWith, hform, hword], (Instr.wf_iff _).mpr ⟨by rw [hform, hallowed], hcanonical⟩⟩

/-- Settles O3: each refusal read off `decodeForm_eq_error_iff`. -/
theorem refusedWords : Obligations.RefusedWords := by
  intro e w he
  have refused (r : DecodeError) := (except_map_eq_error_iff ofForm _ r).trans (decodeForm_eq_error_iff he w r)
  have hpair : forbidden (fieldsOf w).src (fieldsOf w).dst = true ↔ _ := forbidden_ofCode_iff _ _
  have hbrch := Brch.ofCode_eq_none_iff (w.extractLsb' 13 9)
  refine ⟨(refused _).trans ?_, (refused _).trans ?_, (refused _).trans ?_⟩
  · rw [← hpair]; simp
  · simp [UnusedNa, UnusedId]
  · refine Iff.trans ?_ (and_congr_right' (and_congr_right' hbrch))
    simp [UnusedNa]

end Sys2Proof
end

section
/-! PROOFS. What the agents outside the core leave alone, and which moves a step can be. -/

namespace Sys2Proof.Machine

/-! ### The core's side of the state -/

/-- The registers and memories of the core, which no agent but the core and reset writes (R20, R21 to R39). -/
structure CoreSide where
  pc    : CodeAddr
  stack : List CodeAddr
  rp    : RomAddr
  dp    : RamAddr
  ram   : Memory
  irom  : Memory
  drom  : Memory
  k     : Word
  l     : Word
  m     : Word
  n     : Word
  a     : Word
  b     : Word
  flagA : Flags
  flagB : Flags
  tr    : Word
  trb   : Word

/-- The core's side of a state. -/
def State.coreSide (s : State) : CoreSide :=
  { pc := s.pc, stack := s.stack, rp := s.rp, dp := s.dp, ram := s.ram, irom := s.irom, drom := s.drom, k := s.k,
    l := s.l, m := s.m, n := s.n, a := s.a, b := s.b, flagA := s.flagA, flagB := s.flagB, tr := s.tr, trb := s.trb }

@[simp] theorem coreSide_hostWriteDR (data : Byte) (s : State) : (s.hostWriteDR data).coreSide = s.coreSide := by
  unfold State.hostWriteDR; split
  · rfl
  · split <;> rfl

@[simp] theorem coreSide_hostReadDR (s : State) : s.hostReadDR.coreSide = s.coreSide := by
  unfold State.hostReadDR; split
  · rfl
  · split <;> rfl

@[simp] theorem coreSide_hostReadSR (s : State) : s.hostReadSR.coreSide = s.coreSide := rfl

@[simp] theorem coreSide_dmaAcknowledge (s : State) : s.dmaAcknowledge.coreSide = s.coreSide := by
  unfold State.dmaAcknowledge; split <;> rfl

@[simp] theorem coreSide_dmaWriteDR (data : Byte) (s : State) : (s.dmaWriteDR data).coreSide = s.coreSide := by
  simp [State.dmaWriteDR]

@[simp] theorem coreSide_dmaReadDR (s : State) : s.dmaReadDR.coreSide = s.coreSide := by
  simp [State.dmaReadDR]

@[simp] theorem coreSide_siComplete (s : State) : s.siComplete.coreSide = s.coreSide := by
  unfold State.siComplete; split <;> rfl

@[simp] theorem coreSide_sckRise (sien bit : Bool) (s : State) : (s.sckRise sien bit).coreSide = s.coreSide := by
  unfold State.sckRise; split
  · rfl
  · dsimp only; split
    · exact coreSide_siComplete _
    · rfl

@[simp] theorem coreSide_takeSO (s : State) : s.takeSO.coreSide = s.coreSide := rfl

@[simp] theorem coreSide_soLoad (s : State) : s.soLoad.coreSide = s.coreSide := by
  unfold State.soLoad; split <;> rfl

@[simp] theorem coreSide_soEnd (s : State) : s.soEnd.coreSide = s.coreSide := by
  unfold State.soEnd; split <;> rfl

@[simp] theorem coreSide_sckFall (soen : Bool) (s : State) : (s.sckFall soen).coreSide = s.coreSide := by
  unfold State.sckFall; split
  · rfl
  · split
    · dsimp only; split
      · exact coreSide_soEnd _
      · rfl
    · rfl

@[simp] theorem coreSide_edgeWhileDisabled (s : State) : s.edgeWhileDisabled.coreSide = s.coreSide := by
  unfold State.edgeWhileDisabled; split <;> rfl

@[simp] theorem coreSide_intPin (level : Bool) (s : State) : (s.intPin level).coreSide = s.coreSide := by
  unfold State.intPin; split
  · split
    · rfl
    · exact coreSide_edgeWhileDisabled s
  · rfl

/-- A bus cycle the model admits leaves the core's side alone (R321). -/
theorem coreSide_of_hostCycle {pins : BusPins} {data : Byte} {s t : State} (h : s.hostCycle pins data = .next t) :
    t.coreSide = s.coreSide := by
  unfold State.hostCycle at h
  split at h <;> cases h <;> simp

/-! ### Which moves a step can be (R376) -/

/-- A move is the core's or a reset, or it leaves the core's side alone. -/
theorem runMove_cases {mv : Move} {s t : State} (h : runMove mv s = .next t) :
    (mv = .core ∧ coreStep s = .next t) ∨ (mv = .reset ∧ t = s.pinReset) ∨ t.coreSide = s.coreSide := by
  cases mv with
  | core => exact .inl ⟨rfl, h⟩
  | reset => cases h; exact .inr (.inl ⟨rfl, rfl⟩)
  | host pins data => exact .inr (.inr (coreSide_of_hostCycle h))
  | sckRise sien bit => cases h; simp
  | sckFall soen => cases h; simp
  | soLoad => cases h; simp
  | intPin level => cases h; simp

/-- A step is the core's or a reset, or it leaves the core's side alone. -/
theorem step_next_cases {s t : State} (h : step s = .next t) :
    (∃ rest, s.coreNext rest ∧ coreStep { s with schedule := rest } = .next t) ∨
    (∃ rest, s.schedule = .reset :: rest ∧ t = State.pinReset { s with schedule := rest }) ∨
    t.coreSide = s.coreSide := by
  obtain ⟨hs, ho⟩ | ⟨mv, rest, hs, ho⟩ := step_cases h
  · exact .inl ⟨[], .inl ⟨hs, rfl⟩, by rw [ho, ← hs]⟩
  · obtain ⟨rfl, hcore⟩ | ⟨rfl, hreset⟩ | hkept := runMove_cases ho.symm
    · exact .inl ⟨rest, .inr hs, hcore⟩
    · exact .inr (.inl ⟨rest, hs, hreset⟩)
    · exact .inr (.inr hkept)

end Sys2Proof.Machine
end

section
/-! PROOFS. The writers of the flags (10_state.md R37). -/

namespace Sys2Proof.Machine

/-- Both flag registers of `s` stand in `t`. -/
abbrev State.KeepsFlags (s t : State) : Prop := t.flagA = s.flagA ∧ t.flagB = s.flagB

/-- The flag register ASL does not name, in the words of R37. -/
abbrev State.KeepsOtherFlag (s t : State) (f : OpFields) : Prop := t.flag (other f.asl) = s.flag (other f.asl)

theorem keepsFlags_of_coreSide {s t : State} (h : t.coreSide = s.coreSide) : s.KeepsFlags t :=
  ⟨congrArg CoreSide.flagA h, congrArg CoreSide.flagB h⟩

theorem flag_of_keepsFlags {s t : State} (h : s.KeepsFlags t) (x : Acc) : t.flag x = s.flag x := by
  cases x with
  | a => exact h.1
  | b => exact h.2

/-- NOP makes no call of the ALU (R149). -/
theorem opBody_nop_keepsFlags (f : OpFields) (s : State) : s.KeepsFlags (opBody .nop f s) := by
  simp [State.KeepsFlags, opBody_flagA, opBody_flagB]

theorem opBody_keepsOtherFlag (op : AluOp) (f : OpFields) (s : State) : s.KeepsOtherFlag (opBody op f s) f := by
  cases hasl : f.asl with
  | a => simp [State.KeepsOtherFlag, other, State.flag, opBody_flagB, hasl]
  | b => simp [State.KeepsOtherFlag, other, State.flag, opBody_flagA, hasl]

/-- An OP instruction that completes leaves the flags its body leaves. -/
theorem runOp_keepsFlags_opBody {op : AluOp} {f : OpFields} {s t : State} (h : runOp op f s = .next t) :
    (opBody op f s).KeepsFlags t := by
  obtain ⟨-, ho⟩ | ⟨-, -, ho⟩ | ⟨-, -, ho⟩ := runOp_cases h <;> cases ho
  exact ⟨rfl, rfl⟩

/-- An RT instruction that completes leaves the flags its body leaves. -/
theorem runRt_keepsFlags_opBody {op : AluOp} {f : OpFields} {s t : State} (h : runRt op f s = .next t) :
    (opBody op f s).KeepsFlags t := by
  obtain ⟨-, ho⟩ | ⟨-, -, ho⟩ | ⟨_, _, -, -, -, ho⟩ | ⟨_, _, -, -, -, ho⟩ := runRt_cases h <;> cases ho
  exact ⟨rfl, rfl⟩

/-- LD writes no flag (R37). -/
theorem execLd_keepsFlags {id : Word} {dst : Dst} {s t : State} (h : execLd id dst s = .next t) : s.KeepsFlags t := by
  obtain ⟨-, ho⟩ | ⟨-, ho⟩ := execLd_cases h <;> cases ho
  simp [State.KeepsFlags]

/-- What the flags can do where OP or RT leaves the flags of the body. -/
theorem keepsFlags_or_aluWrites {op : AluOp} {f : OpFields} {s t : State} (h : (opBody op f s).KeepsFlags t) :
    s.KeepsFlags t ∨ op ≠ .nop ∧ s.KeepsOtherFlag t f := by
  by_cases hop : op = .nop
  · subst hop
    obtain ⟨nopA, nopB⟩ := opBody_nop_keepsFlags f s
    exact .inl ⟨h.1.trans nopA, h.2.trans nopB⟩
  · exact .inr ⟨hop, (flag_of_keepsFlags h _).trans (opBody_keepsOtherFlag op f s)⟩

/-- R37 for one instruction: both flag registers stand, or it is an OP or RT instruction whose ALU field is not NOP. -/
theorem exec_keepsFlags_or_aluWrites {i : Instr} {s t : State} (h : exec i s = .next t) :
    s.KeepsFlags t ∨
      ∃ op f, (i.form = .op op f ∨ i.form = .rt op f) ∧ op ≠ .nop ∧ s.KeepsOtherFlag t f := by
  obtain ⟨op, f, hform, he⟩ | ⟨op, f, hform, he⟩ | ⟨_, _, -, he⟩ | ⟨_, _, _, -, he⟩ | ⟨_, -, he⟩ := exec_shape i s <;>
    rw [he] at h
  · exact (keepsFlags_or_aluWrites (runOp_keepsFlags_opBody h)).imp_right fun hw => ⟨op, f, .inl hform, hw⟩
  · exact (keepsFlags_or_aluWrites (runRt_keepsFlags_opBody h)).imp_right fun hw => ⟨op, f, .inr hform, hw⟩
  · exact .inl (execLd_keepsFlags h)
  · rw [jumpIf_eq] at h; cases h
    exact .inl ⟨rfl, rfl⟩
  · rw [execCall_eq] at h; cases h
    exact .inl ⟨rfl, rfl⟩

/-- R37 for a core step: taking an interrupt writes no flag, and an instruction only as above. -/
theorem coreStep_keepsFlags_or_aluWrites {s t : State} (h : coreStep s = .next t) :
    s.KeepsFlags t ∨
      ∃ i op f, s.intPending = false ∧ s.fetches i ∧ (i.form = .op op f ∨ i.form = .rt op f) ∧ op ≠ .nop ∧
        s.KeepsOtherFlag t f := by
  obtain ⟨-, ho⟩ | ⟨hpending, i, hi, ho⟩ | ⟨-, e, -, ho⟩ := coreStep_cases h
  · cases ho; exact .inl ⟨rfl, rfl⟩
  · exact (exec_keepsFlags_or_aluWrites ho.symm).imp_right fun ⟨op, f, hw⟩ => ⟨i, op, f, hpending, hi, hw⟩
  · cases ho

/-- Settles O50: by the agent that moves; the agents outside the core write nothing on the core's side. -/
theorem flagsOnlyByALU : Obligations.FlagsOnlyByALU := by
  intro s t h
  obtain ⟨rest, hnext, hcore⟩ | ⟨rest, hs, rfl⟩ | hkept := step_next_cases h
  · obtain hflags | ⟨i, op, f, hpending, hi, hw⟩ := coreStep_keepsFlags_or_aluWrites hcore
    · exact .inl hflags
    · exact .inr (.inr ⟨i, rest, op, f, hnext, hpending, hi, hw⟩)
  · exact .inr (.inl ⟨rest, hs, rfl, rfl⟩)
  · exact .inl (keepsFlags_of_coreSide hkept)

end Sys2Proof.Machine
end

section
/-! PROOFS. The P input of the ALU: what P-SELECT chooses, and the operations that never see it (40_op.md R132). -/

namespace Sys2Proof.Machine

/-! ### What an addition leaves in its accumulator -/

/-- The exact signed sum, narrowed, is the sum modulo 65536 (R143). -/
theorem addFlags_fst (f : Flags) (q p : Word) (cin : Bool) :
    (addFlags f q p cin).1 = q + p + BitVec.ofNat 16 (bitNat cin) := by
  simp [addFlags, BitVec.ofInt_add]

theorem aluResult_add_fst (s : State) (x : Acc) (p : Word) : (s.aluResult .add x p).1 = s.acc x + p :=
  (addFlags_fst _ _ _ _).trans (BitVec.add_zero _)

/-- The selected accumulator after the body: the ALU result, unless the operation is NOP or the transfer wins (R133). -/
theorem opBody_acc (op : AluOp) (f : OpFields) (s : State) :
    (opBody op f s).acc f.asl =
      if f.dst = accDst f.asl then s.bus f
      else if op ≠ .nop then (s.aluResult op f.asl (s.pOf f)).1 else s.acc f.asl := by
  cases hasl : f.asl with
  | a => simp [State.acc, accDst, opBody_a, hasl]
  | b => simp [State.acc, accDst, opBody_b, hasl]

theorem nextPc_acc (s : State) (x : Acc) : s.nextPc.acc x = s.acc x := by cases x <;> rfl

/-- ADD beside a transfer elsewhere adds the P input of the state before the instruction. -/
theorem opBody_add_acc (f : OpFields) (s : State) (h : f.dst ≠ accDst f.asl) :
    (opBody .add f s).acc f.asl = s.acc f.asl + s.pOf f := by
  rw [opBody_acc, if_neg h, if_pos (by decide), aluResult_add_fst]

/-! ### The operations with no P operand -/

/-- The nine operations on which P-SELECT has no effect, their P input being forced or unused (R132). -/
abbrev opsWithoutP : List AluOp := [.nop, .dec, .inc, .cmp, .shr1, .shl1, .shl2, .shl4, .xchg]

/-- The ALU computes these from the accumulator, the carry and the flags alone: one equation of `alu` each. -/
theorem alu_of_mem_opsWithoutP {op : AluOp} (h : op ∈ opsWithoutP) (q p p' : Word) (ci : Bool) (f : Flags) (s1 : Bool) :
    alu op q p ci f s1 = alu op q p' ci f s1 := by
  fin_cases h <;> rfl

theorem aluStep_of_mem_opsWithoutP {op : AluOp} (h : op ∈ opsWithoutP) (s : State) (x : Acc) (p p' : Word) :
    s.aluStep op x p = s.aluStep op x p' := by
  by_cases hop : op = .nop
  · subst hop; rfl
  · have hresult : s.aluResult op x p = s.aluResult op x p' := alu_of_mem_opsWithoutP h ..
    rw [aluStep_of_ne s op x p hop, aluStep_of_ne s op x p' hop, hresult]

/-- P-SELECT reaches the state through the P input alone, so these operations are blind to it. -/
theorem opBody_psel_of_mem_opsWithoutP {op : AluOp} (h : op ∈ opsWithoutP) (f : OpFields) (s : State) (psel : PSel) :
    opBody op { f with psel := psel } s = opBody op f s := by
  have hstep := aluStep_of_mem_opsWithoutP h (s.srcEffect f.src) f.asl (s.pInput psel (s.bus f)) (s.pOf f)
  exact congrArg (fun t => ((t.writeDst f.dst (s.bus f)).stepPointers f).multiply) hstep

/-- Settles O24: ADD shows the P input; the nine others give one body for every P-SELECT. -/
theorem pSelectInputs : Obligations.PSelectInputs := by
  intro s f hready
  refine ⟨fun hdst => ⟨_, exec_opInstr_ready .add f s hready, ?_⟩, fun op hop psel => ?_⟩
  · rw [nextPc_acc, opBody_add_acc f s hdst]
    refine ⟨?ram, ?idb, ?m, ?n⟩ <;> intro hpsel <;> rw [State.pOf, hpsel] <;> rfl
  · have hexec := exec_opInstr_ready op { f with psel := psel } s hready
    rw [opBody_psel_of_mem_opsWithoutP hop] at hexec
    exact ⟨_, exec_opInstr_ready op f s hready, hexec⟩

end Sys2Proof.Machine
end

section
/-! PROOFS. OP on the ALU side: the shape in which every operation completes, and the logic and shift operations
(41_op_alu.md R149 to R152, R159, R161 to R164). -/

namespace Sys2Proof.Machine

/-! ### NOP (R149) -/

theorem opBody_nop_a (f : OpFields) (s : State) (h : f.dst ≠ .a) : (opBody .nop f s).a = s.a := by
  simp [opBody_a, h]

theorem opBody_nop_b (f : OpFields) (s : State) (h : f.dst ≠ .b) : (opBody .nop f s).b = s.b := by
  simp [opBody_b, h]

/-- Settles O16: the body of NOP makes no call of the ALU, so only the transfer can reach an accumulator. -/
theorem nopKeepsFlags : Obligations.NopKeepsFlags := by
  intro s f hready
  obtain ⟨hflagA, hflagB⟩ := opBody_nop_keepsFlags f s
  exact ⟨_, exec_opInstr_ready .nop f s hready, hflagA, hflagB, opBody_nop_a f s, opBody_nop_b f s⟩

/-! ### How an ALU operation completes -/

theorem nextPc_flag (s : State) (x : Acc) : s.nextPc.flag x = s.flag x := by cases x <;> rfl

/-- The selected flag register after the body: the flags of the ALU, whatever the transfer writes (D6). -/
theorem opBody_flag (op : AluOp) (f : OpFields) (s : State) (hop : op ≠ .nop) :
    (opBody op f s).flag f.asl = (s.aluResult op f.asl (s.pOf f)).2 := by
  cases hasl : f.asl with
  | a => simp [State.flag, opBody_flagA, hasl, hop]
  | b => simp [State.flag, opBody_flagB, hasl, hop]

/-- An OP row completes with the word and the flags the ALU makes of its inputs. -/
theorem aluCompletes_of_aluResult {op : AluOp} {f : OpFields} {s : State} {r : Word} {flagsAre : Flags → Prop}
    (hready : s.ready f) (hop : op ≠ .nop) (hword : (s.aluResult op f.asl (s.pOf f)).1 = r)
    (hflags : flagsAre (s.aluResult op f.asl (s.pOf f)).2) : aluCompletes (opInstr op f) f s r flagsAre := by
  refine ⟨_, exec_opInstr_ready op f s hready, ?pc, ?acc, fun _ => ?flag, ?other⟩
  case pc => rw [nextPc_pc, opBody_pc]
  case acc => rw [nextPc_acc, opBody_acc, if_pos hop, hword]
  case flag => rwa [nextPc_flag, opBody_flag op f s hop]
  case other => exact (nextPc_flag _ _).trans (opBody_keepsOtherFlag op f s)

/-- The logic flags are the five of Table 3-3, whatever free value stands for S1 (R147). -/
theorem logicFlagsAre_logicFlags (r : Word) (c s1 : Bool) : logicFlagsAre (logicFlags r c s1) r c :=
  ⟨BitVec.msb_eq_getLsbD_last r, by simp [logicFlags], rfl, rfl, rfl⟩

/-- A logic or shift row, from the word `r` and the carry `c` the ALU gives it. -/
theorem aluCompletes_of_withLogic (op : AluOp) {f : OpFields} {s : State} {r : Word} {c : Bool} (hready : s.ready f)
    (hop : op ≠ .nop) (hresult : s.aluResult op f.asl (s.pOf f) = withLogic r c (Config.freeBit s.freeIndex)) :
    aluCompletes (opInstr op f) f s r (logicFlagsAre · r c) :=
  aluCompletes_of_aluResult hready hop (by rw [hresult]; rfl) (by rw [hresult]; exact logicFlagsAre_logicFlags r c _)

/-! ### The logic operations (R150, R151, R152, R159) -/

/-- Settles O17: OR, AND and XOR are the ALU's own words, and CMP's complement is a subtraction from FFFFH. -/
theorem logicResults : Obligations.LogicResults := by
  intro s f hready
  have hcmp : 0xFFFF - s.acc f.asl = ~~~s.acc f.asl := BitVec.allOnes_sub_eq_not _
  refine ⟨aluCompletes_of_withLogic .or hready (by decide) rfl,
    aluCompletes_of_withLogic .and hready (by decide) rfl,
    aluCompletes_of_withLogic .xor hready (by decide) rfl, ?_⟩
  rw [hcmp]
  exact aluCompletes_of_withLogic .cmp hready (by decide) rfl

/-! ### The shifts (R161 to R164) -/

/-- Shifting `low` in from the right is arithmetic modulo the word: the high bits of `q` fall out. -/
theorem extractLsb'_append_eq_mul_add {n k : Nat} (q : BitVec (n + k)) (low : BitVec k) :
    q.extractLsb' 0 n ++ low = q * BitVec.ofNat (n + k) (2 ^ k) + low.setWidth (n + k) := by
  apply BitVec.eq_of_toNat_eq
  have hfall : q.toNat * 2 ^ k % 2 ^ (n + k) = q.toNat % 2 ^ n * 2 ^ k := by
    rw [Nat.pow_add, Nat.mul_mod_mul_right]
  have happend : (q.extractLsb' 0 n ++ low).toNat = q.toNat % 2 ^ n * 2 ^ k + low.toNat := by
    rw [BitVec.toNat_append, ← Nat.shiftLeft_add_eq_or_of_lt low.isLt, Nat.shiftLeft_eq, BitVec.extractLsb'_toNat,
      Nat.shiftRight_zero]
  calc (q.extractLsb' 0 n ++ low).toNat
    _ = (q.extractLsb' 0 n ++ low).toNat % 2 ^ (n + k) := (Nat.mod_eq_of_lt (BitVec.isLt _)).symm
    _ = (q.toNat * 2 ^ k + low.toNat) % 2 ^ (n + k) := by rw [happend, ← hfall, Nat.mod_add_mod]
    _ = (q * BitVec.ofNat (n + k) (2 ^ k) + low.setWidth (n + k)).toNat := by
        simp only [BitVec.toNat_add, BitVec.toNat_mul, BitVec.toNat_ofNat, BitVec.toNat_setWidth, Nat.mul_mod_mod,
          Nat.mod_add_mod, Nat.add_mod_mod]

/-- Bit `i` of the arithmetic shift is bit `i + 1`, and the sign for bit 15 (R161). -/
theorem sshiftRight_one_eq_append (q : Word) : q.sshiftRight 1 = q.extractLsb' 15 1 ++ q.extractLsb' 1 15 := by
  apply BitVec.eq_of_getLsbD_eq
  intro i hi
  rw [BitVec.getLsbD_sshiftRight, BitVec.getLsbD_append]
  by_cases h : i < 15
  · simp [h, hi, show 1 + i < 16 by omega]
  · obtain rfl : i = 15 := by omega
    simp [BitVec.msb_eq_getLsbD_last]

theorem shl1_eq_append (q : Word) (ci : Bool) :
    q + q + (if ci then 1 else 0) = q.extractLsb' 0 15 ++ BitVec.ofBool ci := by
  refine .trans ?_ (extractLsb'_append_eq_mul_add (n := 15) (k := 1) q (BitVec.ofBool ci)).symm
  have hdouble : q + q = q * 2 := BitVec.mul_two.symm
  rw [hdouble]
  cases ci <;> rfl

theorem shl2_eq_append (q : Word) : 4 * q + 3 = q.extractLsb' 0 14 ++ 0b11#2 := by
  rw [BitVec.mul_comm]
  exact (extractLsb'_append_eq_mul_add (n := 14) (k := 2) q 0b11#2).symm

theorem shl4_eq_append (q : Word) : 16 * q + 15 = q.extractLsb' 0 12 ++ 0b1111#4 := by
  rw [BitVec.mul_comm]
  exact (extractLsb'_append_eq_mul_add (n := 12) (k := 4) q 0b1111#4).symm

/-- Settles O18: each arithmetic form is the ALU's concatenation, and bit 15 its carry out of SHL1. -/
theorem shiftResults : Obligations.ShiftResults := by
  intro s f hready
  have hcarry : (s.acc f.asl).getLsbD 15 = (s.acc f.asl).msb := (BitVec.msb_eq_getLsbD_last _).symm
  dsimp only
  rw [sshiftRight_one_eq_append, shl1_eq_append, shl2_eq_append, shl4_eq_append, hcarry]
  exact ⟨aluCompletes_of_withLogic .shr1 hready (by decide) rfl,
    aluCompletes_of_withLogic .shl1 hready (by decide) rfl,
    aluCompletes_of_withLogic .shl2 hready (by decide) rfl,
    aluCompletes_of_withLogic .shl4 hready (by decide) rfl⟩

end Sys2Proof.Machine
end

section
/-! PROOFS. The data pointer: its two nibbles read and stepped as numbers, and DP after OP and RT (42_op_dp_rp.md R181 to
R186). -/

namespace Sys2Proof.Machine

/-! ### The nibbles of DP -/

theorem dpl_toNat (dp : RamAddr) : (dpl dp).toNat = dp.toNat % 16 := by
  rw [dpl, BitVec.extractLsb'_toNat, Nat.shiftRight_zero]

theorem dph_toNat (dp : RamAddr) : (dph dp).toNat = dp.toNat / 16 := by
  have hlt : dp.toNat / 16 < 2 ^ 4 := by omega
  rw [dph, BitVec.extractLsb'_toNat, Nat.shiftRight_eq_div_pow]
  exact Nat.mod_eq_of_lt hlt

/-- DP joined from its nibbles: no carry or borrow of DPL can reach DPH (R184). -/
theorem dpNext_toNat (op : DplOp) (mask : BitVec 4) (dp : RamAddr) :
    (dpNext op mask dp).toNat = (dph dp ^^^ mask).toNat * 16 + (dplNext op (dpl dp)).toNat := by
  rw [dpNext, BitVec.toNat_append, ← Nat.shiftLeft_add_eq_or_of_lt (BitVec.isLt _), Nat.shiftLeft_eq]

theorem dpNext_div (op : DplOp) (mask : BitVec 4) (dp : RamAddr) :
    (dpNext op mask dp).toNat / 16 = (dp.toNat / 16) ^^^ mask.toNat := by
  have hlow : (dplNext op (dpl dp)).toNat < 16 := BitVec.isLt _
  rw [← dph_toNat dp, ← BitVec.toNat_xor, dpNext_toNat]
  omega

theorem dpNext_mod (op : DplOp) (mask : BitVec 4) (dp : RamAddr) :
    (dpNext op mask dp).toNat % 16 = (dplNext op (dpl dp)).toNat := by
  have hlow : (dplNext op (dpl dp)).toNat < 16 := BitVec.isLt _
  rw [dpNext_toNat]
  omega

/-! ### What DPL steps to -/

theorem dplNext_inc_toNat (dp : RamAddr) : (dplNext .inc (dpl dp)).toNat = (dp.toNat + 1) % 16 := by
  rw [dplNext, BitVec.toNat_add, dpl_toNat]
  exact Nat.mod_add_mod ..

/-- A decrement within four bits is the addition of fifteen. -/
theorem dplNext_dec_toNat (dp : RamAddr) : (dplNext .dec (dpl dp)).toNat = (dp.toNat + 15) % 16 := by
  rw [dplNext, BitVec.toNat_sub, dpl_toNat, Nat.add_comm]
  exact Nat.mod_add_mod ..

/-! ### DP after the body of OP and RT -/

theorem opBody_dp_of_dst (op : AluOp) {f : OpFields} (s : State) (hdst : f.dst = .dp) :
    (opBody op f s).dp.toNat = (s.bus f).toNat % 256 := by
  rw [opBody_dp, if_pos hdst, BitVec.extractLsb'_toNat, Nat.shiftRight_zero]

theorem opBody_dp_of_dst_ne (op : AluOp) {f : OpFields} (s : State) (hdst : f.dst ≠ .dp) :
    (opBody op f s).dp = dpNext f.dpl f.dphm s.dp := by
  rw [opBody_dp, if_neg hdst]

/-- Settles O36: OP and RT share one body, whose DP is the bus or the two nibbles stepped apart. -/
theorem pointerDP : Obligations.PointerDP := by
  intro op f s hready
  refine ⟨_, exec_opInstr_ready op f s hready, ?rt, opBody_dp_of_dst op s, fun hdst => ?step⟩
  case rt =>
    intro ret rest hstack
    exact ⟨_, exec_rtInstr_ready op f s ret rest hready hstack, by rw [returnTo_dp, nextPc_dp]⟩
  case step =>
    rw [nextPc_dp, opBody_dp_of_dst_ne op s hdst, dpNext_mod]
    refine ⟨dpNext_div .., ?nop, ?inc, ?dec, ?clr⟩ <;> intro hdpl <;> rw [hdpl]
    case nop => exact dpl_toNat s.dp
    case inc => exact dplNext_inc_toNat s.dp
    case dec => exact dplNext_dec_toNat s.dp
    case clr => rfl

end Sys2Proof.Machine
end

section
/-! PROOFS. The transfer of OP: the word each source puts on the bus, the requests SRC = DR and DST = @DR make of the
host, and what each destination takes (43_op_src_dst.md R190 to R226). -/

namespace Sys2Proof.Machine

/-! ### When the transfer goes through (R218, R226) -/

/-- The five forbidden pairs (R226): K and L into @KLR and @KLM, and MEM into @MEM. -/
theorem forbidden_iff (src : Src) (dst : Dst) :
    forbidden src dst = true ↔
      (src = .k ∨ src = .l) ∧ (dst = .klr ∨ dst = .klm) ∨ src = .mem ∧ dst = .mem := by
  cases src <;> cases dst <;> decide

/-- Only @KLR, @KLM and @MEM stand in a forbidden pair, and only @SOL and @SOM need SO free. -/
theorem ready_of_dst (s : State) {f : OpFields} (h : f.dst ∉ [Dst.klr, .klm, .mem, .sol, .som]) : s.ready f := by
  simp only [List.mem_cons, List.not_mem_nil, or_false, not_or] at h
  obtain ⟨hklr, hklm, hmem, hsol, hsom⟩ := h
  refine ⟨?_, fun hserial => absurd hserial (not_or.mpr ⟨hsol, hsom⟩)⟩
  rw [← Bool.not_eq_true, forbidden_iff]
  simp [hklr, hklm, hmem]

/-- @MEM is forbidden beside SRC = MEM alone. -/
theorem ready_of_dst_mem (s : State) {f : OpFields} (hdst : f.dst = .mem) (hsrc : f.src ≠ .mem) : s.ready f := by
  rw [State.ready, hdst, ← Bool.not_eq_true, forbidden_iff]
  simp [hsrc]

/-! ### The registers the transfer takes whole (R211, R212) -/

section
variable (op : AluOp) {f : OpFields} (s : State)

theorem opBody_a_of_dst (hdst : f.dst = .a) : (opBody op f s).a = s.bus f := by rw [opBody_a, if_pos hdst]

theorem opBody_b_of_dst (hdst : f.dst = .b) : (opBody op f s).b = s.bus f := by rw [opBody_b, if_pos hdst]

theorem opBody_tr_of_dst (hdst : f.dst = .tr) : (opBody op f s).tr = s.bus f := by rw [opBody_tr, if_pos hdst]

end

/-! ### The status register and the pin DRQ (R199, R216) -/

theorem setBit_setBit (i : Nat) (v : Word) : setBit i (setBit i v) = setBit i v := by
  simp only [setBit, BitVec.or_assoc, BitVec.or_self]

/-- SR wherever the transfer does not write it: touching DR from either side sets RQM, and nothing else changes it. -/
theorem opBody_sr_of_dst_ne (op : AluOp) {f : OpFields} (s : State) (hdst : f.dst ≠ .sr) :
    (opBody op f s).sr = if f.src = .dr ∨ f.dst = .dr then setBit srRQM s.sr else s.sr := by
  rw [opBody_sr, writeDst_sr, if_neg hdst, aluStep_sr, srcEffect_sr]
  by_cases hsrc : f.src = .dr <;> by_cases hdr : f.dst = .dr <;> simp [hsrc, hdr, setBit_setBit]

/-- SR bit by bit where the instruction touches DR and the transfer does not write SR. -/
theorem opBody_srBit_of_touches_dr (op : AluOp) {f : OpFields} (s : State) (hdst : f.dst ≠ .sr)
    (h : f.src = .dr ∨ f.dst = .dr) (j : Nat) : (opBody op f s).srBit j = (s.srBit j || j == srRQM) := by
  rw [State.srBit, opBody_sr_of_dst_ne op s hdst, if_pos h, setBit_getLsbD _ _ _ (by decide)]
  congr 1
  exact decide_eq_decide.mpr eq_comm

/-- A write of SR leaves RQM to the hardware (R217). -/
theorem writeSR_srBit_srRQM (s : State) (v : Word) : (s.writeSR v).srBit srRQM = s.srBit srRQM := by
  obtain ⟨hbits, -⟩ := writeSR_srWriteIs s v
  rw [hbits srRQM (by decide), if_pos rfl, Bool.or_false]

/-- RQM where the transfer writes SR: only SRC = DR beside it can have set it. -/
theorem opBody_srBit_srRQM_of_dst_sr (op : AluOp) {f : OpFields} (s : State) (hdst : f.dst = .sr) :
    (opBody op f s).srBit srRQM = (s.srcEffect f.src).srBit srRQM := by
  rw [State.srBit, opBody_sr, hdst]
  refine (writeSR_srBit_srRQM _ _).trans ?_
  rw [State.srBit, aluStep_sr]
  rfl

/-- SRC = DR leaves RQM set, whatever the destination. -/
theorem opBody_srBit_srRQM_of_src_dr (op : AluOp) {f : OpFields} (s : State) (hsrc : f.src = .dr) :
    (opBody op f s).srBit srRQM = true := by
  by_cases hdst : f.dst = .sr
  · rw [opBody_srBit_srRQM_of_dst_sr op s hdst, hsrc, State.srBit, srcEffect_sr, if_pos rfl,
      setBit_getLsbD _ _ _ (by decide), decide_eq_true rfl, Bool.or_true]
  · rw [opBody_srBit_of_touches_dr op s hdst (.inl hsrc), beq_self_eq_true, Bool.or_true]

/-! ### The sources without a side effect (R191 to R198, R204 to R206) -/

theorem readSrc_dp_toNat (s : State) : (s.readSrc .dp).toNat = s.dp.toNat :=
  BitVec.toNat_setWidth_of_le (by decide)

theorem readSrc_rp_toNat (s : State) : (s.readSrc .rp).toNat = s.rp.toNat :=
  BitVec.toNat_setWidth_of_le (by decide)

theorem readSrc_sgn (s : State) : s.readSrc .sgn = if s.flagA.s1 = false then 0x8000 else 0x7FFF := by
  rw [State.readSrc, State.sgn]
  cases s.flagA.s1 <;> rfl

/-- Settles O28: the bus carries `readSrc` of the state before, and only DR, SIM and SIL have an effect. -/
theorem sourceRegisters : Obligations.SourceRegisters := by
  intro op f s hdst
  have hbus : (opBody op f s).nextPc.tr = s.readSrc f.src := opBody_tr_of_dst op s hdst
  refine ⟨_, exec_opInstr_ready op f s (ready_of_dst s (by rw [hdst]; decide)), ?_⟩
  rw [hbus]
  refine ⟨?non, ?a, ?b, ?tr, ?dp, ?rp, ?ro, ?sgn, ?k, ?l, ?mem, fun hsrc => ?noEffect⟩
  case noEffect =>
    simp only [List.mem_cons, List.not_mem_nil, or_false, not_or] at hsrc
    obtain ⟨hdr, hsim, hsil⟩ := hsrc
    have hsr : f.dst ≠ .sr := by rw [hdst]; decide
    have hdrDst : f.dst ≠ .dr := by rw [hdst]; decide
    simp [opBody_sr_of_dst_ne op s hsr, opBody_drq, opBody_siAck, hdr, hsim, hsil, hdrDst]
  all_goals intro hsrc; rw [hsrc]
  case dp => exact readSrc_dp_toNat s
  case rp => exact readSrc_rp_toNat s
  case sgn => exact readSrc_sgn s
  all_goals rfl

/-! ### DR as a source (R199, R200) -/

/-- DR and DRNF put DR on the bus, so that even DST = @DR stores its own old value. -/
theorem opBody_dr_of_bus_eq (op : AluOp) {f : OpFields} {s : State} (hbus : s.bus f = s.dr) :
    (opBody op f s).dr = s.dr := by
  rw [opBody_dr, hbus, ite_self]

/-- Settles O29: RQM and DRQ by the two sides that touch DR, the rest of SR by whether the transfer writes it. -/
theorem sourceDR : Obligations.SourceDR := by
  intro op f s hready
  refine ⟨_, exec_opInstr_ready op f s hready, fun hsrc => ?dr, fun hsrc => ?drnf, fun hsrc => ?bus⟩
  case dr =>
    refine ⟨opBody_srBit_srRQM_of_src_dr op s hsrc, ?_, fun hdst j _ =>
      opBody_srBit_of_touches_dr op s hdst (.inl hsrc) j⟩
    rw [nextPc_drq, opBody_drq, if_pos (.inl hsrc)]
  case drnf =>
    have hne : f.src ≠ .dr := by rw [hsrc]; decide
    refine ⟨fun hdst => ?_, fun hdst => ?_, fun hdst => ?_⟩
    · simp only [List.mem_cons, List.not_mem_nil, or_false, not_or] at hdst
      obtain ⟨hdr, hsr⟩ := hdst
      rw [nextPc_sr, opBody_sr_of_dst_ne op s hsr, if_neg (not_or.mpr ⟨hne, hdr⟩)]
    · refine (opBody_srBit_srRQM_of_dst_sr op s hdst).trans ?_
      rw [hsrc]
      rfl
    · rw [nextPc_drq, opBody_drq, if_neg (not_or.mpr ⟨hne, hdst⟩)]
  case bus =>
    have hbus : s.bus f = s.dr := by obtain h | h := hsrc <;> rw [State.bus, h] <;> rfl
    exact ⟨opBody_dr_of_bus_eq op hbus, fun hdst => (opBody_tr_of_dst op s hdst).trans hbus,
      fun hdst => (opBody_a_of_dst op s hdst).trans hbus, fun hdst => (opBody_b_of_dst op s hdst).trans hbus⟩

/-! ### The destinations (R211 to R216, R220 to R225) -/

theorem opBody_rp_of_dst (op : AluOp) {f : OpFields} (s : State) (hdst : f.dst = .rp) :
    (opBody op f s).rp.toNat = (s.bus f).toNat % 1024 := by
  rw [opBody_rp, if_pos hdst, BitVec.extractLsb'_toNat, Nat.shiftRight_zero]

/-- K and L under each destination that reaches one of them: @K and @L leave the other, @KLR and @KLM fill it. -/
theorem opBody_kl_of_dst (op : AluOp) (f : OpFields) (s : State) :
    (f.dst = .k → (opBody op f s).k = s.bus f ∧ (opBody op f s).l = s.l) ∧
    (f.dst = .klr → (opBody op f s).k = s.bus f ∧ (opBody op f s).l = s.ro) ∧
    (f.dst = .klm → (opBody op f s).l = s.bus f ∧ (opBody op f s).k = s.ramAt s.dpK) ∧
    (f.dst = .l → (opBody op f s).l = s.bus f ∧ (opBody op f s).k = s.k) := by
  refine ⟨?_, ?_, ?_, ?_⟩ <;> intro hdst <;> simp [opBody_k, opBody_l, hdst]

/-- Settles O31: each register by its own rule, and M and N from the K and L the instruction leaves. -/
theorem destinationRegisters : Obligations.DestinationRegisters := by
  intro op f s hready
  obtain ⟨hk, hklr, hklm, hl⟩ := opBody_kl_of_dst op f s
  have htrb : f.dst = .trb → (opBody op f s).trb = s.bus f := fun hdst => by rw [opBody_trb, if_pos hdst]
  exact ⟨_, exec_opInstr_ready op f s hready, opBody_a_of_dst op s, opBody_b_of_dst op s, opBody_tr_of_dst op s,
    opBody_dp_of_dst op s, opBody_rp_of_dst op s, hk, hklr, hklm, hl, htrb, opBody_m op f s, opBody_n op f s⟩

/-- Settles O32: @DR never stops, stores the bus and asks the host for it. -/
theorem destinationDR : Obligations.DestinationDR := by
  intro op f s hdst
  refine ⟨_, exec_opInstr_ready op f s (ready_of_dst s (by rw [hdst]; decide)), ?dr, ?drq, fun j _ => ?sr⟩
  case dr => rw [nextPc_dr, opBody_dr, if_pos hdst]
  case drq => rw [nextPc_drq, opBody_drq, if_pos (.inr hdst)]
  case sr => exact opBody_srBit_of_touches_dr op s (by rw [hdst]; decide) (.inr hdst) j

/-! ### RAM as a destination (R225) -/

theorem opBody_ram_of_dst (op : AluOp) {f : OpFields} (s : State) (hdst : f.dst = .mem) :
    (opBody op f s).ram = (s.writeRam s.dp (s.bus f)).ram := by
  rw [opBody_ram, if_pos hdst]

/-- RAM word by word after DST = @MEM: the address is the DP before the instruction. -/
theorem opBody_ramAt_of_dst (op : AluOp) {f : OpFields} (s : State) (hdst : f.dst = .mem) (hwf : s.ram.wf .ram)
    (j : RamAddr) : (opBody op f s).ramAt j = if j = s.dp then s.bus f else s.ramAt j := by
  rw [ramAt_congr _ _ (opBody_ram_of_dst op s hdst) j, ramAt_writeRam s s.dp j _ hwf.1]

theorem aluResult_or_fst (s : State) (x : Acc) (p : Word) : (s.aluResult .or x p).1 = s.acc x ||| p := rfl

/-- Settles O35: one RAM word is written, at the old DP, after P-SELECT = RAM has read it. -/
theorem destinationMEM : Obligations.DestinationMEM := by
  intro op f s hdst hsrc hwf
  have hram := opBody_ramAt_of_dst op s hdst hwf
  refine ⟨_, exec_opInstr_ready op f s (ready_of_dst_mem s hdst hsrc), ?written, fun j hj => ?others, ?wf,
    fun hop hpsel => ?seen⟩
  case written => exact (hram s.dp).trans (if_pos rfl)
  case others => exact (hram j).trans (if_neg hj)
  case wf =>
    rw [nextPc_ram, opBody_ram_of_dst op s hdst]
    exact writeRam_wf s s.dp _ hwf
  case seen =>
    have hacc : f.dst ≠ accDst f.asl := by rw [hdst]; cases f.asl <;> decide
    rw [hop, nextPc_acc, opBody_acc, if_neg hacc, if_pos (by decide), aluResult_or_fst, State.pOf, hpsel]
    rfl

end Sys2Proof.Machine
end

section
/-! PROOFS. The conditional jumps: with M and N the product of K and L a jump changes PC alone, and each mnemonic tests one
flag, or the low nibble of DP (45_jp.md R244 to R277). Every conditional jump runs `jumpIf` on its own condition, so each row
below is one of the lemmas about `jumpIf` at the flag, or the value of DPL, that the mnemonic names. -/

namespace Sys2Proof.Machine

/-! ### A jump on a condition, on a flag, on DPL -/

/-- The multiplier finds its own product in M and N, so PC is all a jump changes. -/
theorem jumpIf_of_productLegal {s : State} (hprod : s.ProductLegal) (na : CodeAddr) (c : Bool) :
    jumpIf c na s = .next { s with pc := if c then na else s.pc + 1 } := by
  obtain ⟨hm, hn⟩ := hprod
  rw [jumpIf_eq, ← hm, ← hn]

/-- A jump named "when the flag is 0". -/
theorem jumpIf_flag_clear {s : State} (hprod : s.ProductLegal) (na : CodeAddr) (flag : Bool) :
    jumpIf (!flag) na s = .next { s with pc := if flag == false then na else s.pc + 1 } := by
  rw [jumpIf_of_productLegal hprod, beq_false]

/-- A jump named "when the flag is 1". -/
theorem jumpIf_flag_set {s : State} (hprod : s.ProductLegal) (na : CodeAddr) (flag : Bool) :
    jumpIf flag na s = .next { s with pc := if flag == true then na else s.pc + 1 } := by
  rw [jumpIf_of_productLegal hprod, beq_true]

/-- A test of DPL compares the low nibble of DP as a number (R30). -/
theorem dpl_beq (dp : RamAddr) (d : BitVec 4) : (dpl dp == d) = (dp.toNat % 16 == d.toNat) := by
  rw [← dpl_toNat]
  exact beq_eq_beq.mpr BitVec.toNat_inj.symm

theorem jumpIf_dpl_eq {s : State} (hprod : s.ProductLegal) (na : CodeAddr) (d : BitVec 4) :
    jumpIf (dpl s.dp == d) na s =
      .next { s with pc := if s.dp.toNat % 16 == d.toNat then na else s.pc + 1 } := by
  rw [jumpIf_of_productLegal hprod, dpl_beq]

theorem jumpIf_dpl_ne {s : State} (hprod : s.ProductLegal) (na : CodeAddr) (d : BitVec 4) :
    jumpIf (dpl s.dp != d) na s =
      .next { s with pc := if s.dp.toNat % 16 != d.toNat then na else s.pc + 1 } := by
  rw [jumpIf_of_productLegal hprod, bne, dpl_beq, ← bne]

/-! ### The rows -/

/-- Settles O41: each mnemonic runs `jumpIf` on its flag of FLAG A, clear and set in turn. -/
theorem flagJumpsA : Obligations.FlagJumpsA := by
  intro s na hprod
  have onClear := jumpIf_flag_clear hprod na
  have onSet := jumpIf_flag_set hprod na
  exact ⟨onClear s.flagA.c, onSet s.flagA.c, onClear s.flagA.z, onSet s.flagA.z, onClear s.flagA.ov0, onSet s.flagA.ov0,
    onClear s.flagA.ov1, onSet s.flagA.ov1, onClear s.flagA.s0, onSet s.flagA.s0, onClear s.flagA.s1, onSet s.flagA.s1⟩

/-- Settles O42: each mnemonic runs `jumpIf` on its flag of FLAG B, clear and set in turn. -/
theorem flagJumpsB : Obligations.FlagJumpsB := by
  intro s na hprod
  have onClear := jumpIf_flag_clear hprod na
  have onSet := jumpIf_flag_set hprod na
  exact ⟨onClear s.flagB.c, onSet s.flagB.c, onClear s.flagB.z, onSet s.flagB.z, onClear s.flagB.ov0, onSet s.flagB.ov0,
    onClear s.flagB.ov1, onSet s.flagB.ov1, onClear s.flagB.s0, onSet s.flagB.s0, onClear s.flagB.s1, onSet s.flagB.s1⟩

/-- Settles O43: DPL against 0 and FH, equal and unequal; SI ACK, SO ACK and RQM, clear and set. -/
theorem pointerAndHandshakeJumps : Obligations.PointerAndHandshakeJumps := by
  intro s na hprod
  have dplEq := jumpIf_dpl_eq hprod na
  have dplNe := jumpIf_dpl_ne hprod na
  have onClear := jumpIf_flag_clear hprod na
  have onSet := jumpIf_flag_set hprod na
  exact ⟨dplEq 0, dplNe 0, dplEq 0xF, dplNe 0xF, onClear s.siAck, onSet s.siAck, onClear s.soAck, onSet s.soAck,
    onClear (s.srBit srRQM), onSet (s.srBit srRQM)⟩

end Sys2Proof.Machine
end

section
/-! PROOFS. DST = @SR, whose write of SR follows what the source did to it (43_op_src_dst.md R217). -/

namespace Sys2Proof.Machine

/-- Asking the host sets RQM and leaves the other bits of SR (R199, R216). -/
theorem setBit_srRQM_getLsbD (v : Word) (j : Nat) : (setBit srRQM v).getLsbD j = (v.getLsbD j || j == srRQM) := by
  rw [setBit_getLsbD _ _ _ (by decide)]
  exact congrArg _ (decide_eq_decide.mpr eq_comm)

/-- In all that a write of SR depends on beside the bus, `u` is `s`, but for RQM set if `asks`. -/
structure AsksOnly (s : State) (asks : Bool) (u : State) : Prop where
  srBit      : ∀ j, u.srBit j = (s.srBit j || asks && j == srRQM)
  intPending : u.intPending = s.intPending
  intLatched : u.intLatched = s.intLatched
  siMixed    : u.siMixed = s.siMixed
  siCount    : u.siCount = s.siCount

/-- The request is all the source adds to a write of SR: RQM stays set. -/
theorem srWriteIs_of_asksOnly {s u t : State} {v : Word} {asks : Bool} (h : AsksOnly s asks u)
    (hw : srWriteIs u v false t) : srWriteIs s v asks t := by
  obtain ⟨hbits, hpending, hlatched, hmixed⟩ := hw
  have hkept : ∀ {j}, j ≠ srRQM → u.srBit j = s.srBit j := fun hj => by simp [h.srBit, hj]
  rw [h.intPending, h.intLatched] at hpending
  rw [h.intLatched] at hlatched
  rw [h.siMixed, h.siCount, hkept (by decide)] at hmixed
  refine ⟨fun j hj => ?_, hpending, hlatched, hmixed⟩
  rw [hbits j hj, hkept (j := srDRS) (by decide), h.intLatched, h.srBit srRQM, beq_self_eq_true, Bool.and_true,
    Bool.or_false]

theorem asksOnly_srcEffect (s : State) (src : Src) : AsksOnly s (src == .dr) (s.srcEffect src) where
  srBit j := by
    rw [State.srBit, srcEffect_sr]
    by_cases hsrc : src = .dr
    · rw [if_pos hsrc, setBit_srRQM_getLsbD, hsrc, beq_self_eq_true, Bool.true_and]
      rfl
    · rw [if_neg hsrc, beq_false_of_ne hsrc, Bool.false_and, Bool.or_false]
      rfl
  intPending := srcEffect_intPending s src
  intLatched := srcEffect_intLatched s src
  siMixed := srcEffect_siMixed s src
  siCount := srcEffect_siCount s src

/-- The ALU touches nothing that the write of SR depends on. -/
theorem AsksOnly.aluStep {s u : State} {asks : Bool} (h : AsksOnly s asks u) (op : AluOp) (x : Acc) (p : Word) :
    AsksOnly s asks (u.aluStep op x p) where
  srBit j := by rw [State.srBit, aluStep_sr]; exact h.srBit j
  intPending := by rw [aluStep_intPending, h.intPending]
  intLatched := by rw [aluStep_intLatched, h.intLatched]
  siMixed := by rw [aluStep_siMixed, h.siMixed]
  siCount := by rw [aluStep_siCount, h.siCount]

theorem opBody_srWriteIs_of_dst (op : AluOp) {f : OpFields} (s : State) (hdst : f.dst = .sr) :
    srWriteIs s (s.bus f) (f.src == .dr) (opBody op f s) := by
  have hbefore := (asksOnly_srcEffect s f.src).aluStep op f.asl (s.pOf f)
  have hwrite := srWriteIs_of_asksOnly hbefore (writeSR_srWriteIs _ (s.bus f))
  rw [opBody, hdst]
  exact hwrite

/-- A bit the write of SR takes from the bus as it is: neither of the hardware's two, nor EI. -/
theorem srBit_of_srWriteIs {s t : State} {v : Word} {asks : Bool} (h : srWriteIs s v asks t) {j : Nat}
    (hj : j ∈ [srUF1, srUF0, srDMA, srDRC, srSOC, srSIC, srP1, srP0]) : t.srBit j = v.getLsbD j := by
  have hplace : j < 16 ∧ j ≠ srRQM ∧ j ≠ srDRS ∧ j ≠ srEI ∧ j ∈ srPlaces := by revert j; decide
  obtain ⟨hlt, hrqm, hdrs, hei, hin⟩ := hplace
  obtain ⟨hbits, -⟩ := h
  rw [hbits j hlt, if_neg hrqm, if_neg hdrs, if_neg hei, decide_eq_true hin, Bool.and_true]

/-- Settles O33: the write of SR follows the source, whose only mark on SR is RQM, and the ALU, which leaves none. -/
theorem destinationSR : Obligations.DestinationSR := by
  intro op f s hdst
  have hwrite := opBody_srWriteIs_of_dst op s hdst
  refine ⟨_, exec_opInstr_ready op f s (ready_of_dst s (by rw [hdst]; decide)), hwrite, ?drq,
    srBit_of_srWriteIs hwrite (by decide), srBit_of_srWriteIs hwrite (by decide)⟩
  rw [nextPc_drq, opBody_drq, hdst]
  by_cases hsrc : f.src = .dr <;> simp [hsrc]

end Sys2Proof.Machine
end

section
/-! PROOFS. LD: the effects of its destination and nothing else (46_ld.md R290 to R293). -/

namespace Sys2Proof.Machine

/-- No destination lies in the part of the state that no instruction writes. -/
theorem writeDst_outside (s : State) (dst : Dst) (v : Word) : (s.writeDst dst v).outside = s.outside := by
  simp [State.outside]

theorem writeDst_dp_toNat (s : State) (dst : Dst) (v : Word) :
    (s.writeDst dst v).dp.toNat = if dst = .dp then v.toNat % 256 else s.dp.toNat := by
  rw [writeDst_dp, apply_ite BitVec.toNat, BitVec.extractLsb'_toNat, Nat.shiftRight_zero]

theorem writeDst_rp_toNat (s : State) (dst : Dst) (v : Word) :
    (s.writeDst dst v).rp.toNat = if dst = .rp then v.toNat % 1024 else s.rp.toNat := by
  rw [writeDst_rp, apply_ite BitVec.toNat, BitVec.extractLsb'_toNat, Nat.shiftRight_zero]

/-- @DR sets RQM and no other bit of SR (R216). -/
theorem writeDst_dr_srBit (s : State) (v : Word) (j : Nat) :
    (s.writeDst .dr v).srBit j = (s.srBit j || j == srRQM) := by
  rw [State.srBit, writeDst_sr, if_neg (by decide), if_pos rfl, setBit_srRQM_getLsbD]
  rfl

theorem writeDst_sr_of_notMem (s : State) {dst : Dst} (v : Word) (h : dst ∉ [Dst.dr, .sr]) :
    (s.writeDst dst v).sr = s.sr := by
  simp only [List.mem_cons, List.not_mem_nil, or_false, not_or] at h
  obtain ⟨hdr, hsr⟩ := h
  rw [writeDst_sr, if_neg hsr, if_neg hdr]

/-- Only a write of SR marks an arriving word or takes up an edge of INT (R308, R346). -/
theorem writeDst_interrupt_of_ne (s : State) {dst : Dst} (v : Word) (h : dst ≠ .sr) :
    (s.writeDst dst v).siMixed = s.siMixed ∧ (s.writeDst dst v).intPending = s.intPending ∧
      (s.writeDst dst v).intLatched = s.intLatched := by
  rw [writeDst_siMixed, writeDst_intPending, writeDst_intLatched]
  exact ⟨if_neg h, if_neg h, if_neg h⟩

theorem writeDst_soAck_or (s : State) (dst : Dst) (v : Word) :
    (s.writeDst dst v).soAck = (s.soAck || dst == .som || dst == .sol) := by
  rw [writeDst_soAck]
  by_cases h : dst = .som ∨ dst = .sol
  · rw [if_pos h]
    obtain rfl | rfl := h <;> simp
  · rw [if_neg h]
    obtain ⟨hsom, hsol⟩ := not_or.mp h
    rw [beq_false_of_ne hsom, beq_false_of_ne hsol, Bool.or_false, Bool.or_false]

/-- RAM byte by byte: @MEM writes the two bytes of the word at DP (R225; log 4). -/
theorem writeDst_ram_read (s : State) (dst : Dst) (v : Word) (hwf : s.ram.wf .ram) (addr : Nat) :
    (s.writeDst dst v).ram.read .ram addr =
      if dst = .mem ∧ addr = ramByte s.dp then v.extractLsb' 0 8
      else if dst = .mem ∧ addr = ramByte s.dp + 1 then v.extractLsb' 8 8
      else s.ram.read .ram addr := by
  by_cases hdst : dst = .mem
  · rw [writeDst_ram, if_pos hdst, writeRam_ram, Memory.read_writeWord _ _ _ _ _ hwf.1]
    by_cases hlow : addr = ramByte s.dp
    · rw [if_neg (by omega), if_pos hlow, if_pos ⟨hdst, hlow⟩]
    · simp only [hdst, hlow, true_and, if_false]
  · simp only [writeDst_ram, hdst, false_and, if_false]

/-- Settles O44: LD is the write of its destination, the multiplier and PC + 1, so each field is the destination's. -/
theorem ldResults : Obligations.LdResults := by
  intro s id dst hfree hwf
  refine ⟨_, exec_ld_ready id dst s hfree, ?_⟩
  exact ⟨congrArg (· + 1) (writeDst_pc s dst id), writeDst_stack s dst id, writeDst_flagA s dst id,
    writeDst_flagB s dst id, writeDst_outside s dst id, writeDst_siAck s dst id, writeDst_freeIndex s dst id,
    writeDst_a s dst id, writeDst_b s dst id, writeDst_tr s dst id, writeDst_trb s dst id,
    writeDst_dp_toNat s dst id, writeDst_rp_toNat s dst id, writeDst_dr s dst id, writeDst_drq s dst id,
    fun hdr j _ => hdr ▸ writeDst_dr_srBit s id j, writeDst_sr_of_notMem s id,
    fun hsr => hsr ▸ writeSR_srWriteIs s id, writeDst_interrupt_of_ne s id,
    writeDst_so s dst id, writeDst_soAck_or s dst id, writeDst_k s dst id, writeDst_l s dst id, rfl, rfl,
    writeDst_ram_read s dst id hwf⟩

end Sys2Proof.Machine
end

section
/-! PROOFS. A DMA access beside the host's own (60_exceptions.md R330): the same access of DR, with DRQ acknowledged. -/

namespace Sys2Proof.Machine

/-- The falling edge of DACK writes DRQ and nothing else. -/
theorem dmaAcknowledge_eq (s : State) :
    s.dmaAcknowledge = { s with drq := s.drq && !(s.srBit srDRC || s.srBit srDRS) } := by
  unfold State.dmaAcknowledge
  split
  case isTrue h => rw [h, Bool.not_true, Bool.and_false]
  case isFalse h => rw [Bool.not_eq_true] at h; rw [h, Bool.not_false, Bool.and_true]

/-- The host's write of DR neither reads nor writes DRQ. -/
theorem hostWriteDR_with_drq (s : State) (data : Byte) (d : Bool) :
    State.hostWriteDR data { s with drq := d } = { s.hostWriteDR data with drq := d } := by
  cases hdrc : s.sr.getLsbD srDRC with
  | true => simp [State.hostWriteDR, State.srBit, hdrc]
  | false => cases hdrs : s.sr.getLsbD srDRS <;> simp [State.hostWriteDR, State.srBit, hdrc, hdrs]

/-- The host's read of DR neither reads nor writes DRQ. -/
theorem hostReadDR_with_drq (s : State) (d : Bool) :
    State.hostReadDR { s with drq := d } = { s.hostReadDR with drq := d } := by
  cases hdrc : s.sr.getLsbD srDRC with
  | true => simp [State.hostReadDR, State.srBit, hdrc]
  | false => cases hdrs : s.sr.getLsbD srDRS <;> simp [State.hostReadDR, State.srBit, hdrc, hdrs]

theorem hostWriteDR_drq (s : State) (data : Byte) : (s.hostWriteDR data).drq = s.drq := by
  have h := congrArg State.drq (hostWriteDR_with_drq s data s.drq)
  exact h

theorem hostReadDR_drq (s : State) : s.hostReadDR.drq = s.drq := by
  have h := congrArg State.drq (hostReadDR_with_drq s s.drq)
  exact h

/-! ### The rows of Table 3-6 at the pins (R321, D32) -/

theorem busFunction_dmaWritePins (cs a0 : Bool) : busFunction (dmaWritePins cs a0) = .dmaWriteDR := by
  cases cs <;> cases a0 <;> rfl

theorem busFunction_dmaReadPins (cs a0 : Bool) : busFunction (dmaReadPins cs a0) = .dmaReadDR := by
  cases cs <;> cases a0 <;> rfl

theorem hostCycle_dmaWritePins (cs a0 : Bool) (data : Byte) (s : State) :
    s.hostCycle (dmaWritePins cs a0) data = .next (s.dmaWriteDR data) := by
  rw [State.hostCycle, busFunction_dmaWritePins]

theorem hostCycle_dmaReadPins (cs a0 : Bool) (data : Byte) (s : State) :
    s.hostCycle (dmaReadPins cs a0) data = .next s.dmaReadDR := by
  rw [State.hostCycle, busFunction_dmaReadPins]

/-- Settles O55: DRQ is acknowledged first, and the host's access commutes with that. -/
theorem dmaAccess : Obligations.DmaAccess := by
  intro s cs a0 data rest
  constructor
  · refine ⟨State.hostWriteDR data { s with schedule := rest }, rfl, hostWriteDR_drq _ data, ?_⟩
    refine (hostCycle_dmaWritePins cs a0 data { s with schedule := rest }).trans ?_
    rw [State.dmaWriteDR, dmaAcknowledge_eq, hostWriteDR_with_drq]
    rfl
  · refine ⟨State.hostReadDR { s with schedule := rest }, rfl, hostReadDR_drq _, ?_⟩
    refine (hostCycle_dmaReadPins cs a0 data { s with schedule := rest }).trans ?_
    rw [State.dmaReadDR, dmaAcknowledge_eq, hostReadDR_with_drq]
    rfl

end Sys2Proof.Machine
end

section
/-! PROOFS. The serial input side, word by word (60_exceptions.md section 6): the bits shifted in and the half of SI they
reach. The shift of a bit is the same on both sides. -/

namespace Sys2Proof.Machine

/-! ### Steps of the schedule, and the shift of both sides -/

/-- The agent the schedule names moves (R376). -/
theorem step_of_schedule {s : State} {mv : Move} {rest : List Move} (h : s.schedule = mv :: rest) :
    step s = runMove mv { s with schedule := rest } := by
  rw [step, h]

theorem runFor_succ_of_step {s t : State} (h : step s = .next t) (n : Nat) : runFor (n + 1) s = runFor n t := by
  rw [runFor, h]

/-- A bit enters the shift register of either side from below (R342, R350). -/
theorem shiftUp_getLsbD (w : Word) (b : BitVec 1) {k : Nat} (hk : k < 16) :
    (w.extractLsb' 0 15 ++ b : Word).getLsbD k = if k = 0 then b.getLsbD 0 else w.getLsbD (k - 1) := by
  rw [BitVec.getLsbD_append]
  by_cases h : k = 0
  · simp [h]
  · rw [if_neg (by omega), if_neg h, BitVec.getLsbD_extractLsb']
    simp [show k - 1 < 15 by omega]

/-! ### The input side (R342, R343) -/

/-- The state with `count` bits of a word taken, which stand in the shift register, and the moves to come. -/
def State.receiving (s : State) (shift : Word) (count : Nat) (rest : List Move) : State :=
  { s with schedule := rest, siShift := shift, siCount := count }

/-- A rising edge with SIEN = 0 before the last bit of a word. -/
theorem step_sckRise_mid {s : State} {bit : Bool} {rest : List Move} (hs : s.schedule = .sckRise false bit :: rest)
    (h : s.siCount + 1 < serialLen (s.srBit srSIC)) :
    step s = .next (s.receiving (s.siShift.extractLsb' 0 15 ++ BitVec.ofBool bit) (s.siCount + 1) rest) :=
  (step_of_schedule hs).trans (congrArg Host.Outcome.next (sckRise_mid { s with schedule := rest } bit h))

/-- The rising edge with SIEN = 0 that brings the last bit of a word. -/
theorem step_sckRise_last {s : State} {bit : Bool} {rest : List Move} (hs : s.schedule = .sckRise false bit :: rest)
    (h : serialLen (s.srBit srSIC) ≤ s.siCount + 1) :
    step s =
      .next (s.receiving (s.siShift.extractLsb' 0 15 ++ BitVec.ofBool bit) (s.siCount + 1) rest).siComplete :=
  (step_of_schedule hs).trans (congrArg Host.Outcome.next (sckRise_last { s with schedule := rest } bit h))

/-- The shift register after the bits of a list, the first taken first (R342). -/
def shiftIn : Word → List Bool → Word
  | w, [] => w
  | w, b :: bs => shiftIn (w.extractLsb' 0 15 ++ BitVec.ofBool b) bs

/-- The last bits taken lie lowest, the last of them in bit 0; the older ones have moved up. -/
theorem shiftIn_getLsbD (w : Word) (bits : List Bool) {k : Nat} (hk : k < 16) :
    (shiftIn w bits).getLsbD k =
      if k < bits.length then bits.getD (bits.length - 1 - k) false else w.getLsbD (k - bits.length) := by
  induction bits generalizing w with
  | nil => simp [shiftIn]
  | cons b bs ih =>
    rw [shiftIn, ih, List.length_cons]
    obtain hlt | heq | hgt := Nat.lt_trichotomy k bs.length
    · rw [if_pos hlt, if_pos (by omega), show bs.length + 1 - 1 - k = (bs.length - 1 - k) + 1 by omega,
        List.getD_cons_succ]
    · rw [if_neg (by omega), if_pos (by omega), shiftUp_getLsbD _ _ (by omega), if_pos (by omega)]
      simp [heq]
    · rw [if_neg (by omega), if_neg (by omega), shiftUp_getLsbD _ _ (by omega), if_neg (by omega), Nat.sub_sub]

/-- Bit j of the word is j places below the first. -/
theorem shiftIn_getLsbD_of_lt (w : Word) {bits : List Bool} {j : Nat} (hlen : bits.length ≤ 16)
    (hj : j < bits.length) :
    (shiftIn w bits).getLsbD (bits.length - 1 - j) = bits.getD j false := by
  rw [shiftIn_getLsbD w bits (by omega), if_pos (by omega), show bits.length - 1 - (bits.length - 1 - j) = j by omega]

/-- The edges that bring the rest of a word end in the completion of the word. -/
theorem runFor_sckRise (b : Bool) (bits : List Bool) (s : State)
    (hlen : s.siCount + (bits.length + 1) = serialLen (s.srBit srSIC))
    (hsched : s.schedule = (b :: bits).map (Move.sckRise false)) :
    runFor (bits.length + 1) s =
      some (s.receiving (shiftIn s.siShift (b :: bits)) (serialLen (s.srBit srSIC)) []).siComplete := by
  induction bits generalizing s b with
  | nil =>
    rw [List.length_nil, Nat.zero_add] at hlen
    rw [runFor_succ_of_step (step_sckRise_last hsched (Nat.le_of_eq hlen.symm)), hlen]
    rfl
  | cons c bits ih =>
    rw [List.length_cons] at hlen
    rw [runFor_succ_of_step (step_sckRise_mid hsched (by omega))]
    refine ih c (s.receiving _ _ _) ?_ rfl
    show s.siCount + 1 + (bits.length + 1) = serialLen (s.srBit srSIC)
    omega

/-- A word with one length throughout arrives by that length (R343). -/
theorem siComplete_of_unmixed {s : State} (h : s.siMixed = false) (shift : Word) (count : Nat) (rest : List Move) :
    (s.receiving shift count rest).siComplete =
      { s with
        schedule := rest
        si := siWord (s.srBit srSIC) shift
        siShift := shift
        siAck := true
        siCount := 0 } := by
  have hn : ¬ s.siMixed = true := by rw [h]; decide
  exact if_neg hn

/-- A mixed word arrives as a free value (R346, U14). -/
theorem siComplete_of_mixed {s : State} (h : s.siMixed = true) (shift : Word) (count : Nat) (rest : List Move) :
    (s.receiving shift count rest).siComplete =
      { s with
        schedule := rest
        si := Config.freeWord s.freeIndex
        siShift := shift
        freeIndex := s.freeIndex + 1
        siAck := true
        siCount := 0
        siMixed := false } :=
  if_pos h

/-- A short word lies in the half SI8_PLACEMENT names, and the other half is 0 (R343, D20). -/
theorem siWord_short_getLsbD (shift : Word) {j : Nat} (hj : j < 8) :
    (Config.si8Placement = .high →
      (siWord true shift).getLsbD (15 - j) = shift.getLsbD (7 - j) ∧ (siWord true shift).getLsbD j = false) ∧
    (Config.si8Placement = .low →
      (siWord true shift).getLsbD (7 - j) = shift.getLsbD (7 - j) ∧ (siWord true shift).getLsbD (8 + j) = false) := by
  constructor <;> intro hplace <;> simp only [siWord, if_true, hplace, BitVec.getLsbD_append]
  · rw [if_neg (by omega), if_pos hj, BitVec.getLsbD_extractLsb']
    simp [show 15 - j - 8 = 7 - j by omega, show 7 - j < 8 by omega]
  · rw [if_pos (by omega), if_neg (by omega), BitVec.getLsbD_extractLsb']
    simp [show 7 - j < 8 by omega]

/-- All the edges of a word whose length is the one in force (R342, R343). -/
theorem runFor_sckRise_word (s : State) (bits : List Bool) (hcount : s.siCount = 0) (hmixed : s.siMixed = false)
    (hlen : bits.length = serialLen (s.srBit srSIC)) (hsched : s.schedule = bits.map (Move.sckRise false)) :
    runFor bits.length s =
      some { s with
        schedule := []
        si := siWord (s.srBit srSIC) (shiftIn s.siShift bits)
        siShift := shiftIn s.siShift bits
        siAck := true
        siCount := 0 } := by
  cases bits with
  | nil => exact absurd hlen (by rw [serialLen]; split <;> decide)
  | cons b bits =>
    rw [List.length_cons, runFor_sckRise b bits s (by rw [hcount, Nat.zero_add]; exact hlen) hsched,
      siComplete_of_unmixed hmixed]

/-- Settles O56: a whole word is one run of edges into the shift register, whose bits reach SI by its length; a mixed
word is decided at each edge by its count. -/
theorem serialWordIn : Obligations.SerialWordIn := by
  constructor
  · intro s bits hcount hmixed hlen hsched
    refine ⟨_, runFor_sckRise_word s bits hcount hmixed hlen hsched, rfl, fun hlong j hj => ?_,
      fun hshort j hj => ?_⟩
    · rw [hlong] at hlen ⊢
      have hplace := shiftIn_getLsbD_of_lt s.siShift (j := j) (Nat.le_of_eq hlen) (by rw [hlen]; exact hj)
      rwa [hlen] at hplace
    · rw [hshort] at hlen ⊢
      have hplace := shiftIn_getLsbD_of_lt s.siShift (j := j) (by rw [hlen]; decide) (by rw [hlen]; exact hj)
      rw [hlen] at hplace
      rw [← hplace]
      exact siWord_short_getLsbD _ hj
  · intro s bit rest hsched hmixed len
    by_cases hmid : s.siCount + 1 < len
    · exact ⟨_, step_sckRise_mid hsched hmid, fun _ => rfl, fun h => absurd hmid (Nat.not_lt.mpr h)⟩
    · have hstep := step_sckRise_last hsched (Nat.not_lt.mp hmid)
      rw [siComplete_of_mixed hmixed] at hstep
      exact ⟨_, hstep, fun h => absurd h hmid, fun _ => rfl⟩

end Sys2Proof.Machine
end

section
/-! PROOFS. The serial output side, word by word (60_exceptions.md section 7): the half of SO a word comes from, and the bits
shifted out of it. -/

namespace Sys2Proof.Machine

/-- The state after a falling edge that sent a bit, with the moves to come (R350). -/
def State.bitSent (s : State) (rest : List Move) : State :=
  { s with
    schedule := rest
    soPin := some s.soShift.msb
    soShift := s.soShift.extractLsb' 0 15 ++ (0 : BitVec 1)
    soCount := s.soCount - 1 }

theorem serialLen_le (short : Bool) : serialLen short ≤ 16 := by cases short <;> decide

/-- The bits of SO that are sent, from the top of the half in force down (R352, D20). -/
theorem soSelect_getLsbD (short : Bool) (v : Word) {j : Nat} (hj : j < serialLen short) :
    (soSelect short v).getLsbD (15 - j) =
      v.getLsbD ((if short && Config.so8Select == .low then 7 else 15) - j) := by
  cases short with
  | false => rfl
  | true =>
    have hj8 : j < 8 := hj
    cases hsel : Config.so8Select <;>
      simp only [soSelect, if_true, hsel, BitVec.getLsbD_append, if_neg (show ¬ 15 - j < 8 by omega),
        BitVec.getLsbD_extractLsb']
    case high => simp [show 15 - j - 8 < 8 by omega, show 8 + (15 - j - 8) = 15 - j by omega]
    case low => simp [show 15 - j - 8 = 7 - j by omega, show 7 - j < 8 by omega]

/-- A falling edge with SOEN = 0 before the last bit of a word. -/
theorem step_sckFall_mid {s : State} {rest : List Move} (hs : s.schedule = .sckFall false :: rest)
    (hl : s.soLoaded = false) (hq : s.sorq = true) (hc : 1 < s.soCount) : step s = .next (s.bitSent rest) :=
  (step_of_schedule hs).trans (congrArg Host.Outcome.next (sckFall_mid { s with schedule := rest } hl hq hc))

/-- The falling edge with SOEN = 0 that sends the last bit of a word ends the word. -/
theorem step_sckFall_last {s : State} {rest : List Move} (hs : s.schedule = .sckFall false :: rest)
    (hl : s.soLoaded = false) (hq : s.sorq = true) (hc : s.soCount = 1) : step s = .next (s.bitSent rest).soEnd := by
  have hzero : s.soCount - 1 = 0 := by rw [hc]
  rw [step_of_schedule hs, State.bitSent, hzero]
  exact congrArg Host.Outcome.next (sckFall_last { s with schedule := rest } hl hq hc)

theorem soEnd_of_waiting {s : State} (hack : s.soAck = true) : s.soEnd = s.takeSO := if_pos hack

theorem soEnd_of_free {s : State} (hack : s.soAck = false) : s.soEnd = { s with sorq := false } := by
  rw [State.soEnd, if_neg (by rw [hack]; decide)]

/-- Settles O59: the last edge takes SO, whose bits then stand at the top of the shift register. -/
theorem serialNextWord : Obligations.SerialNextWord := by
  intro s rest hloaded hsorq hcount hack len top
  have hstep := step_sckFall_last (s := { s with schedule := .sckFall false :: rest }) rfl hloaded hsorq hcount
  have htake := soEnd_of_waiting (s := State.bitSent { s with schedule := .sckFall false :: rest } rest) hack
  refine ⟨_, hstep.trans (congrArg _ htake), ?state, fun j hj => soSelect_getLsbD (s.srBit srSOC) s.so hj⟩
  case state =>
    have htop : s.soShift.msb = s.soShift.getLsbD 15 := BitVec.msb_eq_getLsbD_last _
    rw [← htop]
    rfl

/-- SO stands in the shift register under SORQ, and no bit of it has been sent (R348, R349). -/
def State.announced (s : State) (rest : List Move) : State :=
  { s.takeSO with schedule := rest, sorq := true, soLoaded := false, soPin := none }

/-- SoLoad and the falling edge after it announce the word in SO, whatever SOEN (R348, R349). -/
theorem runFor_soLoad_announce {s : State} {soen : Bool} {rest : List Move} (hack : s.soAck = true)
    (hcount : s.soCount = 0) (hsorq : s.sorq = false) (hs : s.schedule = .soLoad :: .sckFall soen :: rest) (n : Nat) :
    runFor (n + 2) s = runFor n (s.announced rest) := by
  have hready : (s.soAck && s.soCount == 0) = true := by rw [hack, hcount]; rfl
  have hload : step s = .next { s.takeSO with schedule := .sckFall soen :: rest, soLoaded := true } :=
    (step_of_schedule hs).trans (congrArg Host.Outcome.next (if_pos hready))
  have hannounce : step { s.takeSO with schedule := .sckFall soen :: rest, soLoaded := true } =
      .next (s.announced rest) :=
    congrArg Host.Outcome.next (sckFall_announce { s.takeSO with schedule := rest, soLoaded := true } soen rfl hsorq)
  rw [runFor_succ_of_step hload, runFor_succ_of_step hannounce]

/-- `t` is `s` with `n` more bits of its word sent, the word ending with the last (R350, R351). -/
structure Sent (s : State) (n : Nat) (t : State) : Prop where
  soPin    : t.soPin = some (s.soShift.getLsbD (16 - n))
  soCount  : t.soCount = s.soCount - n
  sorq     : t.sorq = decide (n < s.soCount)
  soAck    : t.soAck = false
  so       : t.so = s.so
  schedule : t.schedule = []

/-- One falling edge with SOEN = 0 and nothing waiting in SO sends the top bit, whether or not it is the last. -/
theorem step_sckFall_sent {s : State} (hloaded : s.soLoaded = false) (hsorq : s.sorq = true) (hack : s.soAck = false)
    (hcount : 1 ≤ s.soCount) (hs : s.schedule = [.sckFall false]) : ∃ t, step s = .next t ∧ Sent s 1 t := by
  have htop : s.soShift.msb = s.soShift.getLsbD (16 - 1) := BitVec.msb_eq_getLsbD_last _
  obtain hlast | hmore := Nat.eq_or_lt_of_le hcount
  · have hend := soEnd_of_free (s := s.bitSent []) hack
    refine ⟨_, (step_sckFall_last hs hloaded hsorq hlast.symm).trans (congrArg _ hend), congrArg some htop, rfl, ?_,
      hack, rfl, rfl⟩
    rw [← hlast]
    rfl
  · exact ⟨_, step_sckFall_mid hs hloaded hsorq hmore, congrArg some htop, rfl,
      hsorq.trans (decide_eq_true hmore).symm, hack, rfl, rfl⟩

/-- Falling edges with SOEN = 0 send one bit each, from the top of the shift register. -/
theorem runFor_sckFall_sent (n : Nat) (s : State) (hloaded : s.soLoaded = false) (hsorq : s.sorq = true)
    (hack : s.soAck = false) (hn : n + 1 ≤ s.soCount) (hcount : s.soCount ≤ 16)
    (hs : s.schedule = List.replicate (n + 1) (.sckFall false)) :
    ∃ t, runFor (n + 1) s = some t ∧ Sent s (n + 1) t := by
  induction n generalizing s with
  | zero =>
    obtain ⟨t, hstep, hsent⟩ := step_sckFall_sent hloaded hsorq hack hn hs
    exact ⟨t, runFor_succ_of_step hstep 0, hsent⟩
  | succ n ih =>
    have hstep := step_sckFall_mid hs hloaded hsorq (by omega)
    obtain ⟨t, hrun, ⟨hpin, htogo, hrequest, hfree, hso, hdone⟩⟩ :=
      ih (s.bitSent (List.replicate (n + 1) (.sckFall false))) hloaded hsorq hack (Nat.le_sub_of_add_le hn)
        ((Nat.sub_le ..).trans hcount) rfl
    refine ⟨t, (runFor_succ_of_step hstep _).trans hrun, ?pin, ?togo, ?request, hfree, hso, hdone⟩
    case pin => rw [hpin, State.bitSent, shiftUp_getLsbD _ _ (by omega), if_neg (by omega), Nat.sub_sub]
    case togo => rw [htogo, State.bitSent, Nat.sub_sub, Nat.add_comm 1]
    case request => exact hrequest.trans (decide_eq_decide.mpr Nat.lt_sub_iff_add_lt)

/-- Settles O57: SO is loaded and announced, and each further edge sends the next bit of the half in force. -/
theorem serialWordOut : Obligations.SerialWordOut := by
  intro s n hack hcount hsorq hloaded len top hone hle hs
  obtain ⟨m, rfl⟩ := Nat.exists_eq_add_of_le' hone
  obtain ⟨t, hrun, ⟨hpin, htogo, hrequest, hfree, hso, hdone⟩⟩ :=
    runFor_sckFall_sent m (s.announced _) rfl rfl rfl hle (serialLen_le _) rfl
  refine ⟨t, (runFor_soLoad_announce hack hcount hsorq hs _).trans hrun, ?pin, htogo, hrequest, hfree, hso, hdone⟩
  case pin =>
    have htop : top = (if s.srBit srSOC && Config.so8Select == .low then 7 else 15) + 1 := by
      simp only [top]
      split <;> rfl
    have hbit := soSelect_getLsbD (s.srBit srSOC) s.so (j := m) hle
    rw [htop, Nat.add_sub_add_right, ← hbit, hpin, show 16 - (m + 1) = 15 - m by omega]
    rfl

end Sys2Proof.Machine
end

section
/-! PROOFS. What an instruction can do: where it completes, with which fault it stops (60_exceptions.md R310, R311), and
what every instruction leaves alone or leaves the product of K and L. -/

namespace Sys2Proof.Machine

/-! ### Where an instruction completes and where it stops (R311) -/

/-- A transfer to SO, of the forms that have a destination (R218). -/
abbrev Form.toSerial (F : Form) : Prop := dstOf F = some .sol ∨ dstOf F = some .som

/-- The four ends of an instruction, each with what it takes, in the order of R311. -/
inductive ExecEnds (i : Instr) (s : State) : Host.Outcome State Fault Refusal → Prop
  | forbidden (hallowed : i.form.allowed = false) : ExecEnds i s (.fault .forbiddenTransfer)
  | underflow (hallowed : i.form.allowed = true) (hreturn : i.form.isReturn = true) (hstack : s.stack = []) :
      ExecEnds i s (.fault .stackUnderflow)
  | overrun (hallowed : i.form.allowed = true) (hreturn : i.form.isReturn = true → s.stack ≠ [])
      (hserial : Form.toSerial i.form) (hack : s.soAck = true) : ExecEnds i s (.fault .serialOutputOverrun)
  | completes (t : State) (hexec : executable i s) : ExecEnds i s (.next t)

/-- The check of SO ACK, for the forms with a destination. -/
theorem overruns_iff_toSerial (s : State) {F : Form} {dst : Dst} (hdst : dstOf F = some dst) :
    s.overruns dst = true ↔ Form.toSerial F ∧ s.soAck = true := by
  rw [overruns_iff, Form.toSerial, hdst, Option.some_inj, Option.some_inj]

/-- The completing case of an instruction with a destination. -/
theorem execEnds_completes {i : Instr} {s : State} {dst : Dst} (t : State) (hallowed : i.form.allowed = true)
    (hreturn : i.form.isReturn = true → s.stack ≠ []) (hdst : dstOf i.form = some dst)
    (hover : s.overruns dst = false) : ExecEnds i s (.next t) := by
  refine .completes t ⟨hallowed, hreturn, fun hserial => ?_⟩
  rw [← Bool.not_eq_true, overruns_iff_toSerial s hdst] at hover
  exact Bool.eq_false_iff.mpr fun hack => hover ⟨hserial, hack⟩

/-- The overrun of an instruction with a destination. -/
theorem execEnds_overrun {i : Instr} {s : State} {dst : Dst} (hallowed : i.form.allowed = true)
    (hreturn : i.form.isReturn = true → s.stack ≠ []) (hdst : dstOf i.form = some dst)
    (hover : s.overruns dst = true) : ExecEnds i s (.fault .serialOutputOverrun) := by
  obtain ⟨hserial, hack⟩ := (overruns_iff_toSerial s hdst).mp hover
  exact .overrun hallowed hreturn hserial hack

/-- Every instruction ends in one of the four ways: by the shape it runs, and the checks of that shape. -/
theorem exec_ends (i : Instr) (s : State) : ExecEnds i s (exec i s) := by
  obtain ⟨op, f, hform, he⟩ | ⟨op, f, hform, he⟩ | ⟨id, dst, hform, he⟩ | ⟨brch, na, c, hform, he⟩ | ⟨na, hform, he⟩ :=
    exec_shape i s
  case inl =>
    have hallowed : i.form.allowed = !forbidden f.src f.dst := by rw [hform]; rfl
    have hnoReturn : i.form.isReturn = true → s.stack ≠ [] := by rw [hform]; exact fun h => nomatch h
    have hdst : dstOf i.form = some f.dst := by rw [hform]; rfl
    obtain ⟨hf, ho⟩ | ⟨hf, hover, ho⟩ | ⟨hf, hover, ho⟩ := runOp_cases he.symm <;> rw [hf] at hallowed <;> rw [ho]
    · exact .forbidden hallowed
    · exact execEnds_overrun hallowed hnoReturn hdst hover
    · exact execEnds_completes _ hallowed hnoReturn hdst hover
  case inr.inl =>
    have hallowed : i.form.allowed = !forbidden f.src f.dst := by rw [hform]; rfl
    have hdst : dstOf i.form = some f.dst := by rw [hform]; rfl
    obtain ⟨hf, ho⟩ | ⟨hf, hstack, ho⟩ | ⟨ret, rest, hf, hstack, hover, ho⟩ | ⟨ret, rest, hf, hstack, hover, ho⟩ :=
      runRt_cases he.symm <;> rw [hf] at hallowed <;> rw [ho]
    · exact .forbidden hallowed
    · exact .underflow hallowed (by rw [hform]; rfl) hstack
    · exact execEnds_overrun hallowed (by simp [hstack]) hdst hover
    · exact execEnds_completes _ hallowed (by simp [hstack]) hdst hover
  case inr.inr.inl =>
    have hallowed : i.form.allowed = true := by rw [hform]; rfl
    have hnoReturn : i.form.isReturn = true → s.stack ≠ [] := by rw [hform]; exact fun h => nomatch h
    have hdst : dstOf i.form = some dst := by rw [hform]; rfl
    obtain ⟨hover, ho⟩ | ⟨hover, ho⟩ := execLd_cases he.symm <;> rw [ho]
    · exact execEnds_overrun hallowed hnoReturn hdst hover
    · exact execEnds_completes _ hallowed hnoReturn hdst hover
  case inr.inr.inr.inl =>
    rw [he, jumpIf_eq]
    exact .completes _ (by simp [executable, hform, Form.allowed, Form.isReturn, dstOf])
  case inr.inr.inr.inr =>
    rw [he, execCall_eq]
    exact .completes _ (by simp [executable, hform, Form.allowed, Form.isReturn, dstOf])

/-- No instruction is refused. -/
theorem exec_ne_refused (i : Instr) (s : State) (r : Refusal) : exec i s ≠ .refused r := fun h => by
  cases h ▸ exec_ends i s

theorem coreStep_ne_refused (s : State) (r : Refusal) : coreStep s ≠ .refused r := fun h => by
  obtain ⟨-, ho⟩ | ⟨-, i, -, ho⟩ | ⟨-, e, -, ho⟩ := coreStep_cases h
  · cases ho
  · exact exec_ne_refused i s r ho.symm
  · cases ho

/-- No agent is refused its move. -/
theorem runMove_ne_refused (mv : Move) (s : State) (r : Refusal) : runMove mv s ≠ .refused r := by
  cases mv with
  | core => exact coreStep_ne_refused s r
  | host pins data => simp only [runMove, State.hostCycle]; split <;> nofun
  | _ => nofun

/-- Settles O11: the core's instructions end as `ExecEnds` says, and no other agent's move has a refusal. -/
theorem neverRefused : Obligations.NeverRefused := by
  intro s r h
  obtain ⟨-, ho⟩ | ⟨mv, rest, -, ho⟩ := step_cases h
  · exact coreStep_ne_refused s r ho.symm
  · exact runMove_ne_refused mv _ r ho.symm

/-- Settles O12: each of the three faulting ends denies one clause of `executable`. -/
theorem execCompletes : Obligations.ExecCompletes := by
  intro i s
  have hends := exec_ends i s
  rw [executable]
  generalize exec i s = o at hends ⊢
  cases hends with
  | forbidden hallowed => simp [hallowed]
  | underflow hallowed hreturn hstack => simp [hreturn, hstack]
  | overrun hallowed hreturn hserial hack => simp [hserial, hack]
  | completes t hexec => exact iff_of_true hexec ⟨t, rfl⟩

/-- Settles O13: the four ends take conditions that exclude each other. -/
theorem execFaults : Obligations.ExecFaults := by
  intro i s
  have hends := exec_ends i s
  generalize exec i s = o at hends ⊢
  cases hends with
  | forbidden hallowed => simp [hallowed]
  | underflow hallowed hreturn hstack => simp [hallowed, hreturn, hstack]
  | overrun hallowed hreturn hserial hack =>
    refine ⟨by simp [hallowed], ?_, iff_of_true rfl ⟨hallowed, hreturn, hserial, hack⟩, by simp, by simp⟩
    exact iff_of_false (by simp) fun ⟨_, hret, hstack⟩ => hreturn hret hstack
  | completes t hexec =>
    obtain ⟨hallowed, hreturn, hfree⟩ := hexec
    refine ⟨by simp [hallowed], iff_of_false (by simp) ?_, iff_of_false (by simp) ?_, by simp, by simp⟩
    · exact fun ⟨_, hret, hstack⟩ => hreturn hret hstack
    · exact fun ⟨_, _, hserial, hack⟩ => by simp [hfree hserial] at hack

/-! ### The state after an instruction, by shape -/

/-- The states an instruction can complete in: the body of OP with one of two ways to the next PC, the destination of LD,
a jump, a call. -/
theorem exec_next_cases {i : Instr} {s t : State} (h : exec i s = .next t) :
    (∃ op f, i.form = .op op f ∧ t = (opBody op f s).nextPc) ∨
    (∃ op f ret rest, i.form = .rt op f ∧ s.stack = ret :: rest ∧ t = (opBody op f s).returnTo ret rest) ∨
    (∃ id dst, i.form = .ld id dst ∧ t = (s.writeDst dst id).multiply.nextPc) ∨
    (∃ (brch : Brch) (na : CodeAddr) (c : Bool), i.form = .jp brch na ∧
      t = (if c then s.jumpTo na else s.nextPc).multiply) ∨
    (∃ na, i.form = .jp .call na ∧
      t = (State.jumpTo na { s with stack := pushReturn (s.pc + 1) s.stack }).multiply) := by
  obtain ⟨op, f, hform, he⟩ | ⟨op, f, hform, he⟩ | ⟨id, dst, hform, he⟩ | ⟨brch, na, c, hform, he⟩ | ⟨na, hform, he⟩ :=
    exec_shape i s <;> rw [he] at h
  · obtain ⟨-, ho⟩ | ⟨-, -, ho⟩ | ⟨-, -, ho⟩ := runOp_cases h <;> cases ho
    exact .inl ⟨op, f, hform, rfl⟩
  · obtain ⟨-, ho⟩ | ⟨-, -, ho⟩ | ⟨_, _, -, -, -, ho⟩ | ⟨ret, rest, -, hstack, -, ho⟩ := runRt_cases h <;> cases ho
    exact .inr (.inl ⟨op, f, ret, rest, hform, hstack, rfl⟩)
  · obtain ⟨-, ho⟩ | ⟨-, ho⟩ := execLd_cases h <;> cases ho
    exact .inr (.inr (.inl ⟨id, dst, hform, rfl⟩))
  · cases h
    exact .inr (.inr (.inr (.inl ⟨brch, na, c, hform, rfl⟩)))
  · cases h
    exact .inr (.inr (.inr (.inr ⟨na, hform, rfl⟩)))

/-! ### What no instruction writes (R22, R26, R52, R227) -/

theorem opBody_outside (op : AluOp) (f : OpFields) (s : State) : (opBody op f s).outside = s.outside := by
  simp [State.outside]

/-- Settles O14: the shared operations of the five shapes stay inside. -/
theorem outsideKept : Obligations.OutsideKept := by
  intro i s t h
  obtain ⟨op, f, -, rfl⟩ | ⟨op, f, ret, rest, -, -, rfl⟩ | ⟨id, dst, -, rfl⟩ | ⟨-, na, c, -, rfl⟩ | ⟨na, -, rfl⟩ :=
    exec_next_cases h
  · exact opBody_outside op f s
  · exact opBody_outside op f s
  · exact writeDst_outside s dst id
  · cases c <;> rfl
  · rfl

/-! ### The product registers (R32, R33) -/

/-- The multiplier runs last in every instruction, on the K and L it leaves (R33). -/
theorem productLegal_of_exec {i : Instr} {s t : State} (h : exec i s = .next t) : t.ProductLegal := by
  obtain ⟨_, _, -, rfl⟩ | ⟨_, _, _, _, -, -, rfl⟩ | ⟨_, _, -, rfl⟩ | ⟨_, _, _, -, rfl⟩ | ⟨_, -, rfl⟩ :=
    exec_next_cases h <;> exact ⟨rfl, rfl⟩

/-- M over N is the product. -/
theorem productM_append_productN (k l : Word) : (productM k l ++ productN k l : BitVec 32) = product k l := by
  rw [productM, productN, BitVec.extractLsb'_append_extractLsb'_eq_extractLsb' (by rfl)]
  exact BitVec.extractLsb'_eq_self

/-- Two words have a product of 31 bits but for 8000H times 8000H. -/
theorem toInt_mul_toInt_bounds (k l : Word) (h : ¬ (k = 0x8000 ∧ l = 0x8000)) :
    -1073741824 ≤ k.toInt * l.toInt ∧ k.toInt * l.toInt < 1073741824 := by
  have hk := BitVec.le_toInt k
  have hk' := BitVec.toInt_lt (x := k)
  have hl := BitVec.le_toInt l
  have hl' := BitVec.toInt_lt (x := l)
  have hne : ¬ (k.toInt = -32768 ∧ l.toInt = -32768) := fun ⟨hx, hy⟩ =>
    h ⟨BitVec.eq_of_toInt_eq hx, BitVec.eq_of_toInt_eq hy⟩
  generalize k.toInt = x at *
  generalize l.toInt = y at *
  norm_num at hk hk' hl hl'
  constructor
  · nlinarith
  · by_cases hx : x = -32768
    · subst hx; omega
    · nlinarith [show -32767 ≤ x by omega]

theorem product_toInt (k l : Word) :
    (product k l).toInt =
      if k = 0x8000 ∧ l = 0x8000 then -2147483648 else 2 * (k.toInt * l.toInt) := by
  split
  case isTrue h =>
    obtain ⟨rfl, rfl⟩ := h
    decide
  case isFalse h =>
    have hbounds := toInt_mul_toInt_bounds k l h
    rw [product, BitVec.toInt_ofInt]
    exact Int.bmod_eq_of_le (by omega) (by omega)

/-- The product is even: it is shifted left one place (R32). -/
theorem productN_getLsbD_zero (k l : Word) : (productN k l).getLsbD 0 = false := by
  have hdouble : product k l = BitVec.ofInt 32 (k.toInt * l.toInt) <<< 1 := by
    rw [product, BitVec.ofInt_mul]
    exact BitVec.twoPow_mul_eq_shiftLeft _ 1
  rw [productN, hdouble]
  simp

/-- Settles O15: M and N are the product every instruction leaves, and its value as a signed number. -/
theorem productOfInputs : Obligations.ProductOfInputs := by
  intro i s t h
  obtain ⟨hm, hn⟩ := productLegal_of_exec h
  rw [hm, hn, productM_append_productN]
  refine ⟨product_toInt t.k t.l, fun ⟨hk, hl⟩ => ?_, productN_getLsbD_zero t.k t.l⟩
  rw [hk, hl]
  decide

end Sys2Proof.Machine
end

section
/-! PROOFS. The invariant, clause by clause: the core's side (memories, stack, product) and the side the agents share (SR,
the serial counts, the interrupt), each kept by every operation (60_exceptions.md sections 1, 4, 6 and 7). -/

namespace Sys2Proof.Machine

/-! ### The bits of SR (R42, R326) -/

/-- The places of SR_LAYOUT are the bits the hardware and the program write, together. -/
theorem srMask_getLsbD (j : Nat) : (srWritable ||| srReadOnly).getLsbD j = decide (j ∈ srPlaces) := by
  rw [BitVec.getLsbD_or, srWritable_getLsbD, srReadOnly_getLsbD, ← Bool.decide_or]
  refine decide_eq_decide.mpr ?_
  simp only [srPlaces, List.mem_cons, List.not_mem_nil, or_false]
  tauto

theorem srValue_getLsbD (s : State) (j : Nat) : s.srValue.getLsbD j = (s.srBit j && decide (j ∈ srPlaces)) := by
  rw [State.srValue, BitVec.getLsbD_and, srMask_getLsbD]
  rfl

/-- StatusLegal in the bits of SR. -/
theorem statusLegal_iff (s : State) :
    s.StatusLegal ↔
      (∀ j, s.srBit j = true → j ∈ srPlaces) ∧ (s.srBit srDRC = true → s.srBit srDRS = false) := by
  refine and_congr_left' ⟨fun hvalue j hj => ?_, fun hplaces => BitVec.eq_of_getLsbD_eq fun j _ => ?_⟩
  · have hbit := srValue_getLsbD s j
    rw [hvalue, hj, Bool.true_and] at hbit
    exact of_decide_eq_true (hbit.symm.trans hj)
  · rw [srValue_getLsbD]
    cases hbit : s.srBit j with
    | false => exact hbit.symm
    | true => rw [decide_eq_true (hplaces j hbit)]; exact hbit.symm

theorem statusLegal_of_sr_eq {s t : State} (h : t.sr = s.sr) (hs : s.StatusLegal) : t.StatusLegal := by
  rw [statusLegal_iff] at hs ⊢
  simpa only [State.srBit, h] using hs

theorem mem_srPlaces_of_statusLegal {s : State} (h : s.StatusLegal) {j : Nat} (hj : s.srBit j = true) : j ∈ srPlaces :=
  ((statusLegal_iff s).mp h).1 j hj

/-- SR's bits when one is set: the tests of the statements are `j == i`. -/
theorem setBit_getLsbD_beq (v : Word) {i : Nat} (hi : i < 16) (j : Nat) :
    (setBit i v).getLsbD j = (v.getLsbD j || j == i) := by
  rw [setBit_getLsbD _ _ _ hi]
  exact congrArg _ (decide_eq_decide.mpr eq_comm)

/-- SR's bits when one is cleared. -/
theorem clearBit_getLsbD_bne (v : Word) {i : Nat} (hi : i < 16) (j : Nat) :
    (clearBit i v).getLsbD j = (v.getLsbD j && j != i) := by
  rw [clearBit_getLsbD _ _ _ hi]
  exact congrArg (v.getLsbD j && !·) (decide_eq_decide.mpr eq_comm)

/-! ### What an access of DR by the host does to SR (R323, R324) -/

/-- SR after an access of DR by the host: RQM falls with the only byte or the second, DRS marks the first. -/
def State.srTouched (s : State) : Word :=
  if s.srBit srDRC then clearBit srRQM s.sr
  else if s.srBit srDRS then clearBit srRQM (clearBit srDRS s.sr)
  else setBit srDRS s.sr

/-- A host write of DR writes DR and SR, and in 8-bit mode draws a free value. -/
theorem hostWriteDR_eq (data : Byte) (s : State) :
    s.hostWriteDR data =
      { s with
        dr := (s.hostWriteDR data).dr
        freeIndex := (s.hostWriteDR data).freeIndex
        sr := s.srTouched } := by
  unfold State.hostWriteDR State.srTouched
  split
  · rfl
  · split <;> rfl

/-- A host read of DR writes the bus pins and SR. -/
theorem hostReadDR_eq (s : State) :
    s.hostReadDR = { s with hostBus := s.hostReadDR.hostBus, sr := s.srTouched } := by
  unfold State.hostReadDR State.srTouched
  split
  · rfl
  · split <;> rfl

section
variable {s : State}

/-- An access of the only byte of a word, in 8-bit mode. -/
theorem srTouched_getLsbD_single (hdrc : s.srBit srDRC = true) (j : Nat) :
    s.srTouched.getLsbD j = (s.srBit j && j != srRQM) := by
  rw [State.srTouched, if_pos hdrc, clearBit_getLsbD_bne _ (by decide)]
  rfl

/-- An access of the first byte of a word, in 16-bit mode. -/
theorem srTouched_getLsbD_first (hdrc : s.srBit srDRC = false) (hdrs : s.srBit srDRS = false) (j : Nat) :
    s.srTouched.getLsbD j = (s.srBit j || j == srDRS) := by
  rw [State.srTouched, hdrc, hdrs, if_neg (by decide), if_neg (by decide), setBit_getLsbD_beq _ (by decide)]
  rfl

/-- An access of the second byte of a word, in 16-bit mode. -/
theorem srTouched_getLsbD_second (hdrc : s.srBit srDRC = false) (hdrs : s.srBit srDRS = true) (j : Nat) :
    s.srTouched.getLsbD j = (s.srBit j && j != srDRS && j != srRQM) := by
  rw [State.srTouched, hdrc, if_neg (by decide), if_pos hdrs, clearBit_getLsbD_bne _ (by decide),
    clearBit_getLsbD_bne _ (by decide)]
  rfl

/-- The host can set no bit of SR but DRS. -/
theorem srBit_of_srTouched {j : Nat} (h : s.srTouched.getLsbD j = true) : s.srBit j = true ∨ j = srDRS := by
  cases hdrc : s.srBit srDRC with
  | true => rw [srTouched_getLsbD_single hdrc, Bool.and_eq_true] at h; exact .inl h.1
  | false =>
    cases hdrs : s.srBit srDRS with
    | true => rw [srTouched_getLsbD_second hdrc hdrs, Bool.and_eq_true, Bool.and_eq_true] at h; exact .inl h.1.1
    | false => simpa [srTouched_getLsbD_first hdrc hdrs] using h

/-- In 8-bit mode DRS stays 0 (R326). -/
theorem srTouched_srDRS (hlegal : s.StatusLegal) (h : s.srTouched.getLsbD srDRC = true) :
    s.srTouched.getLsbD srDRS = false := by
  have hdrc : s.srBit srDRC = true := (srBit_of_srTouched h).resolve_right (by decide)
  have hdrs : s.srBit srDRS = false := hlegal.2 hdrc
  rw [srTouched_getLsbD_single hdrc, hdrs, Bool.false_and]

end

/-! ### The two sides of the invariant -/

/-- The clauses about the memories, the stack and the product, which only the core and reset can reach. -/
structure State.CoreLegal (s : State) : Prop where
  memory  : s.MemoryLegal
  stack   : s.StackLegal
  product : s.ProductLegal

/-- The clauses about SR, the serial counts and the interrupt, which the other agents write too. -/
structure State.AgentLegal (s : State) : Prop where
  status    : s.StatusLegal
  serialIn  : s.SerialInLegal
  serialOut : s.SerialOutLegal
  interrupt : s.InterruptLegal

theorem inv_iff (s : State) : s.Inv ↔ s.CoreLegal ∧ s.AgentLegal :=
  ⟨fun ⟨memory, stack, status, product, serialIn, serialOut, interrupt⟩ =>
      ⟨⟨memory, stack, product⟩, ⟨status, serialIn, serialOut, interrupt⟩⟩,
    fun ⟨hcore, hagent⟩ => ⟨hcore.memory, hcore.stack, hagent.status, hcore.product, hagent.serialIn, hagent.serialOut,
      hagent.interrupt⟩⟩

theorem coreLegal_of_coreSide {s t : State} (h : t.coreSide = s.coreSide) (hs : s.CoreLegal) : t.CoreLegal := by
  simp only [State.coreSide, CoreSide.mk.injEq] at h
  obtain ⟨-, hstack, -, -, hram, hirom, hdrom, hk, hl, hm, hn, -⟩ := h
  obtain ⟨hmemory, hstackLegal, hproduct⟩ := hs
  refine ⟨?_, ?_, ?_⟩
  · rwa [State.MemoryLegal, hram, hirom, hdrom]
  · rwa [State.StackLegal, hstack]
  · rwa [State.ProductLegal, hk, hl, hm, hn]

/-- Settles O9: the memories and the stack are empty, the rest is zero. -/
theorem invariantAtReset : Obligations.InvariantAtReset := by
  unfold Obligations.InvariantAtReset
  decide

theorem serialLen_pos (short : Bool) : 0 < serialLen short := by cases short <;> decide

/-! ### The agents' side under the agents outside the core -/

namespace State.AgentLegal

variable {s : State}

/-- RQM and DRS may rise, the latter where DRC = 0, and every bit may fall. -/
theorem withSr (h : s.AgentLegal) {v : Word}
    (hrise : ∀ j, v.getLsbD j = true → s.srBit j = true ∨ j ∈ [srRQM, srDRS])
    (hdrs : v.getLsbD srDRC = true → v.getLsbD srDRS = false) : AgentLegal { s with sr := v } := by
  obtain ⟨hstatus, hin, hout, hpending, hlatched⟩ := h
  refine ⟨(statusLegal_iff _).mpr ⟨fun j hj => ?_, hdrs⟩, hin, hout, fun hp => ?_, hlatched⟩
  · obtain hbit | hhardware := hrise j hj
    · exact mem_srPlaces_of_statusLegal hstatus hbit
    · exact (show ∀ i ∈ [srRQM, srDRS], i ∈ srPlaces by decide) j hhardware
  · refine Bool.eq_false_iff.mpr fun hei => ?_
    obtain hbit | hhardware := hrise srEI hei
    · exact absurd hbit (Bool.eq_false_iff.mp (hpending hp))
    · exact absurd hhardware (by decide)

theorem srTouched (h : s.AgentLegal) : AgentLegal { s with sr := s.srTouched } :=
  h.withSr (fun _ hj => (srBit_of_srTouched hj).imp_right fun hdrs => by simp [hdrs]) (srTouched_srDRS h.status)

theorem hostWriteDR (h : s.AgentLegal) (data : Byte) : (s.hostWriteDR data).AgentLegal := by
  rw [hostWriteDR_eq]
  exact ⟨h.srTouched.status, h.serialIn, h.serialOut, h.srTouched.interrupt⟩

theorem hostReadDR (h : s.AgentLegal) : s.hostReadDR.AgentLegal := by
  rw [hostReadDR_eq]
  exact ⟨h.srTouched.status, h.serialIn, h.serialOut, h.srTouched.interrupt⟩

theorem dmaAcknowledge (h : s.AgentLegal) : s.dmaAcknowledge.AgentLegal := by
  rw [dmaAcknowledge_eq]
  exact ⟨h.status, h.serialIn, h.serialOut, h.interrupt⟩

/-- Every bus cycle the model admits (Table 3-6). -/
theorem of_hostCycle (h : s.AgentLegal) {pins : BusPins} {data : Byte} {t : State}
    (ht : s.hostCycle pins data = .next t) : t.AgentLegal := by
  unfold State.hostCycle at ht
  split at ht <;> cases ht
  · exact h
  · exact h.hostWriteDR data
  · exact h.dmaAcknowledge.hostWriteDR data
  · exact h.hostReadDR
  · exact h.dmaAcknowledge.hostReadDR
  · exact ⟨h.status, h.serialIn, h.serialOut, h.interrupt⟩

/-- A rising edge of SCK counts a bit, or ends the word and the mark with it (R342, R343, R346). -/
theorem sckRise (h : s.AgentLegal) (sien bit : Bool) : (s.sckRise sien bit).AgentLegal := by
  have ⟨hstatus, _, hout, hint⟩ := h
  cases sien with
  | true => exact h
  | false =>
    by_cases hmid : s.siCount + 1 < serialLen (s.srBit srSIC)
    · have hlen := serialLen_le (s.srBit srSIC)
      rw [sckRise_mid s bit hmid]
      exact ⟨hstatus, ⟨by show s.siCount + 1 ≤ 15; omega, fun _ => Nat.succ_ne_zero _⟩, hout, hint⟩
    · have hlast : s.sckRise false bit = (s.receiving _ _ s.schedule).siComplete :=
        sckRise_last s bit (Nat.not_lt.mp hmid)
      rw [hlast]
      cases hmixed : s.siMixed with
      | true =>
        rw [siComplete_of_mixed hmixed]
        exact ⟨hstatus, ⟨Nat.zero_le _, nofun⟩, hout, hint⟩
      | false =>
        rw [siComplete_of_unmixed hmixed]
        exact ⟨hstatus, ⟨Nat.zero_le _, fun hm => absurd (hmixed.symm.trans hm) (by decide)⟩, hout, hint⟩

/-- SoLoad takes a word only where none is being sent, so that SORQ is low (R348). -/
theorem soLoad (h : s.AgentLegal) : s.soLoad.AgentLegal := by
  obtain ⟨hstatus, hin, ⟨hcount, hloaded, hsending⟩, hint⟩ := h
  unfold State.soLoad
  split
  case isTrue htakes =>
    rw [Bool.and_eq_true, beq_iff_eq] at htakes
    have hzero : s.soCount = 0 := htakes.2
    have hsorq : s.sorq = false := by
      rw [hzero, bne_self_eq_false, Bool.or_eq_false_iff] at hsending
      exact hsending.1
    have hlen := serialLen_pos (s.srBit srSOC)
    exact ⟨hstatus, hin, ⟨serialLen_le _, fun _ => hsorq, by simp [State.takeSO, hlen.ne']⟩, hint⟩
  case isFalse => exact ⟨hstatus, hin, ⟨hcount, hloaded, hsending⟩, hint⟩

/-- The end of a word: the next one follows without a gap, or SORQ falls (R351). -/
theorem of_soEnd (hstatus : s.StatusLegal) (hin : s.SerialInLegal) (hint : s.InterruptLegal) (hsorq : s.sorq = true)
    (hfree : s.soLoaded = false) (hzero : s.soCount = 0) : s.soEnd.AgentLegal := by
  cases hack : s.soAck with
  | true =>
    have hlen := serialLen_pos (s.srBit srSOC)
    rw [soEnd_of_waiting hack]
    exact ⟨hstatus, hin, ⟨serialLen_le _, fun hl => absurd (hfree.symm.trans hl) (by decide),
      (Bool.or_eq_true_iff.mpr (.inl hsorq)).trans (bne_iff_ne.mpr hlen.ne').symm⟩, hint⟩
  | false =>
    rw [soEnd_of_free hack]
    exact ⟨hstatus, hin, ⟨by simp [hzero], fun _ => rfl, by simp [hfree, hzero]⟩, hint⟩

/-- A falling edge of SCK announces a word, sends a bit of one, or lets the pin go (R349, R350, R353). -/
theorem sckFall (h : s.AgentLegal) (soen : Bool) : (s.sckFall soen).AgentLegal := by
  obtain ⟨hstatus, hin, ⟨hcount, hloaded, hsending⟩, hint⟩ := h
  unfold State.sckFall
  split
  case isTrue hannounce =>
    rw [Bool.and_eq_true] at hannounce
    rw [hannounce.1, Bool.or_true] at hsending
    exact ⟨hstatus, hin, ⟨hcount, nofun, hsending⟩, hint⟩
  case isFalse =>
    split
    case isTrue hsends =>
      rw [Bool.and_eq_true, Bool.and_eq_true] at hsends
      have hsorq : s.sorq = true := hsends.1.1
      have hfree : s.soLoaded = false := Bool.eq_false_iff.mpr fun hl => by simp [hloaded hl] at hsorq
      dsimp only
      split
      case isTrue hlast => exact of_soEnd hstatus hin hint hsorq hfree hlast
      case isFalse hmore =>
        exact ⟨hstatus, hin, ⟨(Nat.sub_le _ _).trans hcount, hloaded, by simp [hsorq, hmore]⟩, hint⟩
    case isFalse => exact ⟨hstatus, hin, ⟨hcount, hloaded, hsending⟩, hint⟩

/-- A rising edge of INT clears EI as it raises the request, and is latched only where the parameter says so (R302,
R308). -/
theorem intPin (h : s.AgentLegal) (level : Bool) : (s.intPin level).AgentLegal := by
  obtain ⟨hstatus, hin, hout, hpending, hlatched⟩ := h
  unfold State.intPin
  split
  case isTrue =>
    split
    case isTrue =>
      have hclear : ∀ j, (clearBit srEI s.sr).getLsbD j = true → s.srBit j = true ∧ j ≠ srEI := by
        intro j hj
        rw [clearBit_getLsbD_bne _ (by decide), Bool.and_eq_true, bne_iff_ne] at hj
        exact hj
      refine ⟨(statusLegal_iff _).mpr ⟨fun j hj => ?_, fun hdrc => ?_⟩, hin, hout, fun _ => ?_, hlatched⟩
      · exact mem_srPlaces_of_statusLegal hstatus (hclear j hj).1
      · exact Bool.eq_false_iff.mpr fun hdrs =>
          Bool.eq_false_iff.mp (hstatus.2 (hclear _ hdrc).1) (hclear _ hdrs).1
      · exact Bool.eq_false_iff.mpr fun hei => (hclear _ hei).2 rfl
    case isFalse =>
      unfold State.edgeWhileDisabled
      split
      case h_1 => exact ⟨hstatus, hin, hout, hpending, hlatched⟩
      case h_2 hpolicy => exact ⟨hstatus, hin, hout, hpending, fun _ => hpolicy⟩
  case isFalse => exact ⟨hstatus, hin, hout, hpending, hlatched⟩

/-! ### The agents' side under the core -/

/-- Asking the host sets RQM (R199, R216). -/
theorem requestHost (h : s.AgentLegal) : s.requestHost.AgentLegal := by
  have hset := h.withSr (v := setBit srRQM s.sr) (fun j hj => ?rise) ?drs
  case rise =>
    rw [setBit_srRQM_getLsbD, Bool.or_eq_true, beq_iff_eq] at hj
    exact hj.imp_right fun hrqm => by simp [hrqm]
  case drs =>
    rw [setBit_srRQM_getLsbD, setBit_srRQM_getLsbD, show (srDRC == srRQM) = false by decide,
      show (srDRS == srRQM) = false by decide, Bool.or_false, Bool.or_false]
    exact h.status.2
  exact ⟨hset.status, h.serialIn, h.serialOut, hset.interrupt⟩

/-- A write of SR while no request is pending: an EI it sets is taken up by a latched edge (R217, R308). -/
theorem writeSR (h : s.AgentLegal) (hpending : s.intPending = false) (v : Word) : (s.writeSR v).AgentLegal := by
  have hwrite := writeSR_srWriteIs s v
  have ⟨hbits, hrequest, hedge, hmixed⟩ := hwrite
  obtain ⟨hstatus, ⟨hcount, hmark⟩, hout, -, hlatched⟩ := h
  have hdrc : (s.writeSR v).srBit srDRC = v.getLsbD srDRC := srBit_of_srWriteIs hwrite (by decide)
  have hdrs : (s.writeSR v).srBit srDRS = (s.srBit srDRS && !v.getLsbD srDRC) := hbits srDRS (by decide)
  have hei : (s.writeSR v).srBit srEI = (v.getLsbD srEI && !s.intLatched) := hbits srEI (by decide)
  refine ⟨(statusLegal_iff _).mpr ⟨fun j hj => ?places, fun h => ?drs⟩, ⟨?count, fun h => ?mark⟩, ?out, fun h => ?ei,
    fun h => hlatched ?latched⟩
  case places =>
    have hlt : j < 16 := BitVec.lt_of_getLsbD hj
    rw [hbits j hlt] at hj
    by_cases hplace : j ∈ [srRQM, srDRS, srEI]
    · clear hj; revert j; decide
    · simp only [List.mem_cons, List.not_mem_nil, or_false, not_or] at hplace
      obtain ⟨hrqm, hdrs, hei⟩ := hplace
      rw [if_neg hrqm, if_neg hdrs, if_neg hei, Bool.and_eq_true] at hj
      exact of_decide_eq_true hj.2
  case drs => rw [hdrs, ← hdrc, h, Bool.not_true, Bool.and_false]
  case count => rwa [writeSR_siCount]
  case mark =>
    rw [writeSR_siCount]
    rw [hmixed, Bool.or_eq_true, Bool.and_eq_true, bne_iff_ne] at h
    exact h.elim hmark And.left
  case out => rwa [State.SerialOutLegal, writeSR_soCount, writeSR_soLoaded, writeSR_sorq]
  case ei =>
    rw [hrequest, hpending, Bool.false_or, Bool.and_eq_true] at h
    rw [hei, h.2, Bool.not_true, Bool.and_false]
  case latched =>
    rw [hedge, Bool.and_eq_true] at h
    exact h.1

theorem srcEffect (h : s.AgentLegal) (src : Src) : (s.srcEffect src).AgentLegal := by
  cases src with
  | dr => exact h.requestHost
  | _ => exact ⟨h.status, h.serialIn, h.serialOut, h.interrupt⟩

theorem aluStep (h : s.AgentLegal) (op : AluOp) (x : Acc) (p : Word) : (s.aluStep op x p).AgentLegal := by
  by_cases hop : op = .nop
  · subst hop; exact h
  · rw [aluStep_of_ne s op x p hop]
    cases x <;> exact ⟨h.status, h.serialIn, h.serialOut, h.interrupt⟩

theorem writeDst (h : s.AgentLegal) (hpending : s.intPending = false) (dst : Dst) (v : Word) :
    (s.writeDst dst v).AgentLegal := by
  cases dst with
  | dr => exact ⟨h.requestHost.status, h.serialIn, h.serialOut, h.requestHost.interrupt⟩
  | sr => exact h.writeSR hpending v
  | _ => exact ⟨h.status, h.serialIn, h.serialOut, h.interrupt⟩

theorem stepPointers (h : s.AgentLegal) (f : OpFields) : (s.stepPointers f).AgentLegal :=
  ⟨h.status, h.serialIn, h.serialOut, h.interrupt⟩

theorem multiply (h : s.AgentLegal) : s.multiply.AgentLegal := ⟨h.status, h.serialIn, h.serialOut, h.interrupt⟩

theorem nextPc (h : s.AgentLegal) : s.nextPc.AgentLegal := ⟨h.status, h.serialIn, h.serialOut, h.interrupt⟩

theorem jumpTo (h : s.AgentLegal) (na : CodeAddr) : (s.jumpTo na).AgentLegal :=
  ⟨h.status, h.serialIn, h.serialOut, h.interrupt⟩

theorem returnTo (h : s.AgentLegal) (ret : CodeAddr) (rest : List CodeAddr) : (s.returnTo ret rest).AgentLegal :=
  ⟨h.status, h.serialIn, h.serialOut, h.interrupt⟩

theorem opBody (h : s.AgentLegal) (hpending : s.intPending = false) (op : AluOp) (f : OpFields) :
    (opBody op f s).AgentLegal := by
  have hbefore := (h.srcEffect f.src).aluStep op f.asl (s.pOf f)
  exact ((hbefore.writeDst (by simpa using hpending) f.dst (s.bus f)).stepPointers f).multiply

/-- Every instruction, which runs only where no request is pending. -/
theorem of_exec (h : s.AgentLegal) (hpending : s.intPending = false) {i : Instr} {t : State}
    (ht : exec i s = .next t) : t.AgentLegal := by
  obtain ⟨op, f, -, rfl⟩ | ⟨op, f, ret, rest, -, -, rfl⟩ | ⟨id, dst, -, rfl⟩ | ⟨-, na, c, -, rfl⟩ | ⟨_, -, rfl⟩ :=
    exec_next_cases ht
  · exact (h.opBody hpending op f).nextPc
  · exact (h.opBody hpending op f).returnTo ret rest
  · exact (h.writeDst hpending dst id).multiply.nextPc
  · cases c
    · exact h.nextPc.multiply
    · exact (h.jumpTo na).multiply
  · exact ⟨h.status, h.serialIn, h.serialOut, h.interrupt⟩

end State.AgentLegal

/-! ### The core's side under the core and reset -/

theorem length_pushReturn_le (v : CodeAddr) (stack : List CodeAddr) : (pushReturn v stack).length ≤ 4 :=
  List.length_take_le 4 _

theorem memoryLegal_writeDst {s : State} (h : s.MemoryLegal) (dst : Dst) (v : Word) : (s.writeDst dst v).MemoryLegal := by
  obtain ⟨hram, hirom, hdrom⟩ := h
  rw [State.MemoryLegal, writeDst_ram, writeDst_irom, writeDst_drom]
  refine ⟨?_, hirom, hdrom⟩
  split
  · exact writeRam_wf s s.dp v hram
  · exact hram

theorem memoryLegal_opBody {s : State} (h : s.MemoryLegal) (op : AluOp) (f : OpFields) :
    (opBody op f s).MemoryLegal := by
  obtain ⟨hram, hirom, hdrom⟩ := h
  rw [State.MemoryLegal, opBody_ram, opBody_irom, opBody_drom]
  refine ⟨?_, hirom, hdrom⟩
  split
  · exact writeRam_wf s s.dp _ hram
  · exact hram

theorem State.CoreLegal.of_exec {s t : State} {i : Instr} (h : s.CoreLegal) (ht : exec i s = .next t) : t.CoreLegal := by
  obtain ⟨hmemory, hstack, -⟩ := h
  have hproduct := productLegal_of_exec ht
  obtain ⟨op, f, -, rfl⟩ | ⟨op, f, ret, rest, -, hs, rfl⟩ | ⟨id, dst, -, rfl⟩ | ⟨-, _, c, -, rfl⟩ | ⟨_, -, rfl⟩ :=
    exec_next_cases ht
  · exact ⟨memoryLegal_opBody hmemory op f, by rwa [State.StackLegal, nextPc_stack, opBody_stack], hproduct⟩
  · rw [State.StackLegal, hs] at hstack
    exact ⟨memoryLegal_opBody hmemory op f, (Nat.le_succ _).trans hstack, hproduct⟩
  · exact ⟨memoryLegal_writeDst hmemory dst id, by rwa [State.StackLegal, nextPc_stack, multiply_stack, writeDst_stack],
      hproduct⟩
  · cases c <;> exact ⟨hmemory, hstack, hproduct⟩
  · exact ⟨hmemory, length_pushReturn_le _ _, hproduct⟩

/-! ### Every step -/

theorem inv_takeInterrupt {s : State} (h : s.Inv) : s.takeInterrupt.Inv := by
  obtain ⟨memory, -, status, product, serialIn, serialOut, -, hlatched⟩ := h
  exact ⟨memory, length_pushReturn_le _ _, status, product, serialIn, serialOut, nofun, hlatched⟩

theorem pinReset_ram (s : State) : s.pinReset.ram = freeRam (s.freeIndex + 13) := by rw [State.pinReset]

theorem inv_pinReset {s : State} (h : s.Inv) : s.pinReset.Inv := by
  obtain ⟨⟨-, hirom, hdrom⟩, -⟩ := h
  obtain ⟨-, hstack, hstatus, -, hin, hout, -⟩ := invariantAtReset
  have hram : s.pinReset.ram.wf .ram := by
    rw [pinReset_ram]
    exact freeRam_wf _
  have hsr : s.pinReset.sr = 0 := rfl
  have hproduct : s.pinReset.ProductLegal := ⟨rfl, rfl⟩
  exact ⟨⟨hram, hirom, hdrom⟩, hstack, statusLegal_of_sr_eq (s := .reset) hsr hstatus, hproduct, hin, hout, nofun,
    nofun⟩

theorem inv_of_coreStep {s t : State} (h : s.Inv) (ht : coreStep s = .next t) : t.Inv := by
  obtain ⟨-, ho⟩ | ⟨hpending, i, -, ho⟩ | ⟨-, e, -, ho⟩ := coreStep_cases ht
  · cases ho; exact inv_takeInterrupt h
  · obtain ⟨hcore, hagent⟩ := (inv_iff s).mp h
    exact (inv_iff t).mpr ⟨hcore.of_exec ho.symm, hagent.of_exec hpending ho.symm⟩
  · cases ho

/-- An agent outside the core that keeps its own side keeps the invariant: it leaves the core's side alone. -/
theorem inv_of_agent {s t : State} (h : s.Inv) (hside : t.coreSide = s.coreSide)
    (hagent : s.AgentLegal → t.AgentLegal) : t.Inv := by
  obtain ⟨hcore, hs⟩ := (inv_iff s).mp h
  exact (inv_iff t).mpr ⟨coreLegal_of_coreSide hside hcore, hagent hs⟩

theorem inv_of_runMove {s t : State} {mv : Move} (h : s.Inv) (ht : runMove mv s = .next t) : t.Inv := by
  cases mv with
  | core => exact inv_of_coreStep h ht
  | reset => cases ht; exact inv_pinReset h
  | host pins data => exact inv_of_agent h (coreSide_of_hostCycle ht) (·.of_hostCycle ht)
  | sckRise sien bit => cases ht; exact inv_of_agent h (coreSide_sckRise sien bit s) (·.sckRise sien bit)
  | sckFall soen => cases ht; exact inv_of_agent h (coreSide_sckFall soen s) (·.sckFall soen)
  | soLoad => cases ht; exact inv_of_agent h (coreSide_soLoad s) (·.soLoad)
  | intPin level => cases ht; exact inv_of_agent h (coreSide_intPin level s) (·.intPin level)

/-- Settles O8: by the agent that moves. -/
theorem invariantKept : Obligations.InvariantKept := by
  intro s t h ht
  obtain ⟨-, ho⟩ | ⟨mv, rest, -, ho⟩ := step_cases ht
  · exact inv_of_coreStep h ho.symm
  · exact inv_of_runMove (s := { s with schedule := rest }) h ho.symm

end Sys2Proof.Machine
end

section
/-! PROOFS. The arithmetic operations and XCHG: the word and the flags of ADD, ADC, INC, SUB, SBB and DEC, their overflow
by the signs, the free S1 of the logic operations, and the flags where the transfer wins (41_op_alu.md R143 to R148, R153
to R158, R165). -/

namespace Sys2Proof.Machine

/-! ### XCHG (R165, D26) -/

/-- The two bytes traded, as a number. -/
theorem xchg_eq (q : Word) :
    q.extractLsb' 0 8 ++ q.extractLsb' 8 8 = BitVec.ofNat 16 (q.toNat % 256 * 256 + q.toNat / 256) := by
  have hlow : (q.extractLsb' 0 8).toNat = q.toNat % 256 := by
    rw [BitVec.extractLsb'_toNat, Nat.shiftRight_zero]
  have hhigh : (q.extractLsb' 8 8).toNat = q.toNat / 256 := by
    have hlt : q.toNat / 256 < 2 ^ 8 := by omega
    rw [BitVec.extractLsb'_toNat, Nat.shiftRight_eq_div_pow]
    exact Nat.mod_eq_of_lt hlt
  have happend : (q.extractLsb' 0 8 ++ q.extractLsb' 8 8).toNat = q.toNat % 256 * 256 + q.toNat / 256 := by
    rw [BitVec.toNat_append, ← Nat.shiftLeft_add_eq_or_of_lt (BitVec.isLt _), Nat.shiftLeft_eq, hlow, hhigh]
  rw [← happend]
  exact ((BitVec.ofNat_toNat 16 _).trans (BitVec.setWidth_eq _)).symm

/-- Settles O19: the ALU's word has the traded bytes as its value. -/
theorem exchangeResult : Obligations.ExchangeResult := by
  intro s f hready
  dsimp only
  rw [← xchg_eq]
  exact aluCompletes_of_withLogic .xchg hready (by decide) rfl

/-! ### The flags of an exact result (R141 to R147) -/

/-- The six flags of an arithmetic operation in the words of Table 3-2, case by case on the old OV1. -/
theorem arithFlagsAre_arithFlags (f : Flags) (r : Word) (c v : Bool) :
    arithFlagsAre f (arithFlags f r c v) r c v := by
  have hsign : r.msb = r.getLsbD 15 := BitVec.msb_eq_getLsbD_last r
  refine ⟨hsign, beq_iff_eq, rfl, rfl, fun hold => ?_, fun hold => ?_, fun hv => ?_, fun hv hold => ?_,
    fun hv hold => ?_⟩
  · simpa [arithFlags, hold] using hsign
  · simp [arithFlags, hold]
  · simp [arithFlags, hv]
  · simp [arithFlags, hv, hold]
  · simp [arithFlags, hv, hold, hsign]

/-- An arithmetic row, from the exact result `x` and the carry the ALU makes of its inputs. -/
theorem aluCompletes_of_exact (op : AluOp) {f : OpFields} {s : State} {x : Int} {r : Word} {carry carry' ovf : Prop}
    [Decidable carry] [Decidable carry'] [Decidable ovf] (hready : s.ready f) (hop : op ≠ .nop)
    (hresult : s.aluResult op f.asl (s.pOf f) =
      (BitVec.ofInt 16 x, arithFlags (s.flag f.asl) (BitVec.ofInt 16 x) (decide carry) (overflows x)))
    (hword : BitVec.ofInt 16 x = r) (hcarry : carry ↔ carry') (hover : x < -32768 ∨ 32767 < x ↔ ovf) :
    aluCompletes (opInstr op f) f s r (arithFlagsAre (s.flag f.asl) · r (decide carry') (decide ovf)) := by
  have hv : overflows x = decide ovf := by
    rw [overflows, ← Bool.decide_or]
    exact decide_eq_decide.mpr (Or.comm.trans hover)
  rw [hword, hv, decide_eq_decide.mpr hcarry] at hresult
  refine aluCompletes_of_aluResult hready hop (by rw [hresult]) ?_
  rw [hresult]
  exact arithFlagsAre_arithFlags (s.flag f.asl) r _ _

/-! ### Sums (R154, R156, R158) -/

theorem ofInt_sum (q p : Word) (ci : Nat) :
    BitVec.ofInt 16 (q.toInt + p.toInt + ci) = q + p + BitVec.ofNat 16 ci := by
  simp [BitVec.ofInt_add]

theorem toInt_bounds (q : Word) : -32768 ≤ q.toInt ∧ q.toInt ≤ 32767 :=
  ⟨BitVec.le_toInt q, Int.le_of_lt_add_one BitVec.toInt_lt⟩

/-- Settles O20: the exact sum with no carry in, with the carry not selected, and with 1 for an operand 0. -/
theorem addResults : Obligations.AddResults := by
  intro s f hready q p old ci
  refine ⟨aluCompletes_of_exact .add hready (by decide) rfl ?addWord Iff.rfl ?addOver,
    aluCompletes_of_exact .adc hready (by decide) rfl (ofInt_sum q p ci) Iff.rfl Iff.rfl,
    aluCompletes_of_exact .inc hready (by decide) rfl ?incWord ?incCarry ?incOver⟩
  case addWord => exact (ofInt_sum q p 0).trans (BitVec.add_zero _)
  case addOver => exact Iff.of_eq (congrArg (fun x => x < -32768 ∨ 32767 < x) (Int.add_zero (q.toInt + p.toInt)))
  case incWord => exact (ofInt_sum q 0 1).trans (congrArg (· + 1) (BitVec.add_zero q))
  case incCarry =>
    have hlt : q.toNat < 65536 := q.isLt
    rw [← BitVec.toNat_inj]
    show 65535 < q.toNat + 0 + 1 ↔ q.toNat = 65535
    omega
  case incOver =>
    have hbounds := toInt_bounds q
    rw [← BitVec.toInt_inj]
    show q.toInt + 0 + 1 < -32768 ∨ 32767 < q.toInt + 0 + 1 ↔ q.toInt = 32767
    omega

/-! ### Differences (R153, R155, R157, D27) -/

theorem ofInt_difference (q p : Word) (ci : Nat) :
    BitVec.ofInt 16 (q.toInt - p.toInt - ci) = q - p - BitVec.ofNat 16 ci := by
  simp [Int.sub_eq_add_neg, BitVec.ofInt_add, BitVec.ofInt_neg, BitVec.sub_eq_add_neg]

/-- Settles O21: the exact difference with no borrow in, with the carry not selected, and with 1 for an operand 0. -/
theorem subResults : Obligations.SubResults := by
  intro s f hready q p old ci
  refine ⟨aluCompletes_of_exact .sub hready (by decide) rfl ?subWord Iff.rfl ?subOver,
    aluCompletes_of_exact .sbb hready (by decide) rfl (ofInt_difference q p ci) Iff.rfl Iff.rfl,
    aluCompletes_of_exact .dec hready (by decide) rfl ?decWord ?decBorrow ?decOver⟩
  case subWord => exact (ofInt_difference q p 0).trans (BitVec.sub_zero _)
  case subOver => exact Iff.of_eq (congrArg (fun x => x < -32768 ∨ 32767 < x) (Int.sub_zero (q.toInt - p.toInt)))
  case decWord => exact (ofInt_difference q 0 1).trans (congrArg (· - 1) (BitVec.sub_zero q))
  case decBorrow =>
    rw [← BitVec.toNat_inj]
    show q.toNat < 0 + 1 ↔ q.toNat = 0
    omega
  case decOver =>
    have hbounds := toInt_bounds q
    rw [← BitVec.toInt_inj]
    show q.toInt - 0 - 1 < -32768 ∨ 32767 < q.toInt - 0 - 1 ↔ q.toInt = -32768
    omega

/-! ### Overflow by the signs (R144, the second form) -/

/-- A result one bit too long is the one whose narrowed sign is wrong. -/
theorem overflows_eq_sign_bne {x : Int} (hlo : -65536 ≤ x) (hhi : x < 65536) :
    overflows x = (decide (x < 0) != (BitVec.ofInt 16 x).msb) := by
  have hnarrow : (BitVec.ofInt 16 x).toInt =
      if 32767 < x then x - 65536 else if x < -32768 then x + 65536 else x := by
    rw [BitVec.toInt_ofInt, Int.bmod_def]
    split_ifs <;> omega
  rw [BitVec.msb_eq_toInt, hnarrow, overflows, ← Bool.decide_or, Bool.eq_iff_iff]
  simp only [bne_iff_ne, ne_eq, decide_eq_decide, decide_eq_true_eq]
  split_ifs <;> omega

/-- An exact result that can overflow in one constellation of the operands' signs only, where its own sign is known,
overflows when the narrowed sign is another. -/
theorem overflows_of_signs {x : Int} {critical sign : Bool} (hlo : -65536 ≤ x) (hhi : x < 65536)
    (hsign : critical = true → decide (x < 0) = sign) (hfits : critical = false → -32768 ≤ x ∧ x ≤ 32767) :
    overflows x = (critical && (BitVec.ofInt 16 x).msb != sign) := by
  cases hcritical : critical with
  | true => rw [Bool.true_and, overflows_eq_sign_bne hlo hhi, hsign hcritical, bne_comm]
  | false =>
    obtain ⟨hge, hle⟩ := hfits hcritical
    simp [overflows, hge, hle]

theorem bitNat_le (c : Bool) : bitNat c ≤ 1 := by cases c <;> decide

/-- A sum can overflow only where its operands have one sign, which is then the sign of the exact sum. -/
theorem overflows_sum (q p : Word) (ci : Bool) :
    overflows (q.toInt + p.toInt + bitNat ci) =
      (q.msb == p.msb && (BitVec.ofInt 16 (q.toInt + p.toInt + bitNat ci)).msb != q.msb) := by
  have hq := toInt_bounds q
  have hp := toInt_bounds p
  have hci := bitNat_le ci
  refine overflows_of_signs (by omega) (by omega) ?_ ?_ <;> rw [BitVec.msb_eq_toInt, BitVec.msb_eq_toInt]
  · rw [beq_iff_eq, decide_eq_decide, decide_eq_decide]
    omega
  · rw [beq_eq_false_iff_ne, ne_eq, decide_eq_decide]
    omega

/-- A difference can overflow only where its operands differ in sign, and the exact one has the sign of the minuend. -/
theorem overflows_difference (q p : Word) (ci : Bool) :
    overflows (q.toInt - p.toInt - bitNat ci) =
      (q.msb != p.msb && (BitVec.ofInt 16 (q.toInt - p.toInt - bitNat ci)).msb != q.msb) := by
  have hq := toInt_bounds q
  have hp := toInt_bounds p
  have hci := bitNat_le ci
  refine overflows_of_signs (by omega) (by omega) ?_ ?_ <;> rw [BitVec.msb_eq_toInt, BitVec.msb_eq_toInt]
  · rw [bne_iff_ne, ne_eq, decide_eq_decide, decide_eq_decide]
    omega
  · rw [bne_eq_false_iff_eq, decide_eq_decide]
    omega

/-- OV0 of an addition, from the accumulator it leaves. -/
theorem addFlags_ov0 (old : Flags) (q p : Word) (ci : Bool) :
    (addFlags old q p ci).2.ov0 = (q.msb == p.msb && (addFlags old q p ci).1.msb != q.msb) :=
  overflows_sum q p ci

/-- OV0 of a subtraction, from the accumulator it leaves. -/
theorem subFlags_ov0 (old : Flags) (q p : Word) (ci : Bool) :
    (subFlags old q p ci).2.ov0 = (q.msb != p.msb && (subFlags old q p ci).1.msb != q.msb) :=
  overflows_difference q p ci

/-- The accumulator and the flags an operation other than NOP leaves beside a transfer elsewhere are the ALU's. -/
theorem exec_opInstr_aluResult (op : AluOp) {f : OpFields} {s : State} (hready : s.ready f)
    (hdst : f.dst ≠ accDst f.asl) :
    ∃ t, exec (opInstr op f) s = .next t ∧
      (op ≠ .nop → (t.acc f.asl, t.flag f.asl) = s.aluResult op f.asl (s.pOf f)) := by
  refine ⟨_, exec_opInstr_ready op f s hready, fun hop => ?_⟩
  rw [nextPc_acc, nextPc_flag, opBody_acc, if_neg hdst, if_pos hop, opBody_flag op f s hop]

/-- Settles O22: OV0 is the overflow of the exact result, which the signs of the ALU's inputs and word tell. -/
theorem overflowBySigns : Obligations.OverflowBySigns := by
  intro s f op hready hdst
  obtain ⟨t, ht, hresult⟩ := exec_opInstr_aluResult op hready hdst
  have hsum : ∀ q r : Bool, (q == false && r != q) = (!q && r) := by decide
  have hdifference : ∀ q r : Bool, (q != false && r != q) = (q && !r) := by decide
  refine ⟨t, ht, ?add, ?sub, ?inc, ?dec⟩
  case add =>
    rintro (rfl | rfl) <;> obtain ⟨hacc, hflag⟩ := Prod.mk.inj (hresult (by decide)) <;> rw [hacc, hflag]
    · exact addFlags_ov0 _ _ _ false
    · exact addFlags_ov0 _ _ _ (s.carryIn f.asl)
  case sub =>
    rintro (rfl | rfl) <;> obtain ⟨hacc, hflag⟩ := Prod.mk.inj (hresult (by decide)) <;> rw [hacc, hflag]
    · exact subFlags_ov0 _ _ _ false
    · exact subFlags_ov0 _ _ _ (s.carryIn f.asl)
  case inc =>
    rintro rfl
    obtain ⟨hacc, hflag⟩ := Prod.mk.inj (hresult (by decide))
    rw [hacc, hflag]
    exact (addFlags_ov0 _ _ 0 true).trans (hsum _ _)
  case dec =>
    rintro rfl
    obtain ⟨hacc, hflag⟩ := Prod.mk.inj (hresult (by decide))
    rw [hacc, hflag]
    exact (subFlags_ov0 _ _ 0 true).trans (hdifference _ _)

/-! ### The free S1 (R145, U1) and the flags beside a transfer that wins (D6) -/

/-- The nine operations marked x in Table 3-3 write the value drawn for them. -/
theorem aluResult_s1 (s : State) {op : AluOp} (h : drawsS1 op = true) (x : Acc) (p : Word) :
    (s.aluResult op x p).2.s1 = Config.freeBit s.freeIndex := by
  cases op with
  | nop | sub | add | sbb | adc | dec | inc => cases h
  | _ => rfl

/-- Settles O23: `drawsS1` names the nine operations, and the body counts what it draws. -/
theorem signFreeAfterLogic : Obligations.SignFreeAfterLogic := by
  intro s f op hready
  refine ⟨_, exec_opInstr_ready op f s hready, fun hop => ?_, fun hop => ?_⟩
  · have hdraws : drawsS1 op = true := by fin_cases hop <;> rfl
    have hne : op ≠ .nop := by rintro rfl; cases hdraws
    rw [nextPc_flag, opBody_flag op f s hne, nextPc_freeIndex, opBody_freeIndex, if_pos hdraws]
    exact ⟨aluResult_s1 s hdraws _ _, rfl⟩
  · have hdraws : drawsS1 op = false := by fin_cases hop <;> rfl
    rw [nextPc_freeIndex, opBody_freeIndex, hdraws, if_neg (by decide)]

/-- Settles O25: the flags of the body do not mention the destination. -/
theorem flagsWhenTransferWins : Obligations.FlagsWhenTransferWins := by
  intro op s f hready
  have hnon : s.ready { f with dst := .non } := ready_of_dst s (show Dst.non ∉ _ by decide)
  refine ⟨_, _, exec_opInstr_ready op f s hready, exec_opInstr_ready op _ s hnon, ?_, ?_⟩
  · rw [nextPc_flagA, nextPc_flagA, opBody_flagA, opBody_flagA]
  · rw [nextPc_flagB, nextPc_flagB, opBody_flagB, opBody_flagB]

end Sys2Proof.Machine
end

section
/-! PROOFS. What an OP instruction leaves alone, register by register and byte by byte; the serial and status sources, SO as
a destination, RP, and RT as the same body (40_op.md, 42_op_dp_rp.md section 4, 43_op_src_dst.md, 44_rt.md). -/

namespace Sys2Proof.Machine

section
variable {op : AluOp} {f : OpFields} (s : State)

/-! ### The frame of the body (R130, R227) -/

theorem opBody_a_of_ne (hdst : f.dst ≠ .a) (hasl : op = .nop ∨ f.asl = .b) : (opBody op f s).a = s.a := by
  rw [opBody_a, if_neg hdst, if_neg]
  rintro ⟨ha, hop⟩
  exact hasl.elim hop fun hb => nomatch ha.symm.trans hb

theorem opBody_b_of_ne (hdst : f.dst ≠ .b) (hasl : op = .nop ∨ f.asl = .a) : (opBody op f s).b = s.b := by
  rw [opBody_b, if_neg hdst, if_neg]
  rintro ⟨hb, hop⟩
  exact hasl.elim hop fun ha => nomatch ha.symm.trans hb

theorem opBody_flagA_of_ne (hasl : op = .nop ∨ f.asl = .b) : (opBody op f s).flagA = s.flagA := by
  rw [opBody_flagA, if_neg]
  rintro ⟨ha, hop⟩
  exact hasl.elim hop fun hb => nomatch ha.symm.trans hb

theorem opBody_flagB_of_ne (hasl : op = .nop ∨ f.asl = .a) : (opBody op f s).flagB = s.flagB := by
  rw [opBody_flagB, if_neg]
  rintro ⟨hb, hop⟩
  exact hasl.elim hop fun ha => nomatch ha.symm.trans hb

theorem opBody_tr_of_ne (hdst : f.dst ≠ .tr) : (opBody op f s).tr = s.tr := by rw [opBody_tr, if_neg hdst]

theorem opBody_trb_of_ne (hdst : f.dst ≠ .trb) : (opBody op f s).trb = s.trb := by rw [opBody_trb, if_neg hdst]

/-- DP with neither field written: each nibble stands. -/
theorem dpNext_nop_zero (dp : RamAddr) : dpNext .nop 0 dp = dp := by
  have hxor : dph dp ^^^ 0 = dph dp := BitVec.xor_zero
  rw [dpNext, hxor, dph, dpl, dplNext, BitVec.extractLsb'_append_extractLsb'_eq_extractLsb' (by rfl)]
  exact BitVec.extractLsb'_eq_self

theorem opBody_dp_of_ne (hdst : f.dst ≠ .dp) (hdpl : f.dpl = .nop) (hdphm : f.dphm = 0) :
    (opBody op f s).dp = s.dp := by
  rw [opBody_dp_of_dst_ne op s hdst, hdpl, hdphm, dpNext_nop_zero]

theorem opBody_rp_of_dst_ne (hdst : f.dst ≠ .rp) : (opBody op f s).rp = rpNext f.rpdcr s.rp := by
  rw [opBody_rp, if_neg hdst]

theorem opBody_rp_of_ne (hdst : f.dst ≠ .rp) (hrpdcr : f.rpdcr = .nop) : (opBody op f s).rp = s.rp := by
  rw [opBody_rp_of_dst_ne s hdst, hrpdcr, rpNext]

theorem opBody_k_of_notMem (hdst : f.dst ∉ [Dst.k, .klr, .klm]) : (opBody op f s).k = s.k := by
  simp only [List.mem_cons, List.not_mem_nil, or_false, not_or] at hdst
  obtain ⟨hk, hklr, hklm⟩ := hdst
  rw [opBody_k, if_neg (not_or.mpr ⟨hk, hklr⟩), if_neg hklm]

theorem opBody_l_of_notMem (hdst : f.dst ∉ [Dst.l, .klr, .klm]) : (opBody op f s).l = s.l := by
  simp only [List.mem_cons, List.not_mem_nil, or_false, not_or] at hdst
  obtain ⟨hl, hklr, hklm⟩ := hdst
  rw [opBody_l, if_neg (not_or.mpr ⟨hl, hklm⟩), if_neg hklr]

theorem opBody_dr_of_ne (hdst : f.dst ≠ .dr) : (opBody op f s).dr = s.dr := by rw [opBody_dr, if_neg hdst]

theorem opBody_so_of_notMem (hdst : f.dst ∉ [Dst.sol, .som]) :
    (opBody op f s).so = s.so ∧ (opBody op f s).soAck = s.soAck := by
  simp only [List.mem_cons, List.not_mem_nil, or_false, not_or] at hdst
  obtain ⟨hsol, hsom⟩ := hdst
  rw [opBody_so, if_neg hsom, if_neg hsol, opBody_soAck, if_neg (not_or.mpr ⟨hsom, hsol⟩)]
  exact ⟨rfl, rfl⟩

theorem opBody_siAck_of_notMem (hsrc : f.src ∉ [Src.sim, .sil]) : (opBody op f s).siAck = s.siAck := by
  rw [opBody_siAck, if_neg (by simpa using hsrc)]

theorem opBody_drq_of_ne (hsrc : f.src ≠ .dr) (hdst : f.dst ≠ .dr) : (opBody op f s).drq = s.drq := by
  rw [opBody_drq, if_neg (not_or.mpr ⟨hsrc, hdst⟩)]

theorem opBody_sr_of_ne (hsrc : f.src ≠ .dr) (hdst : f.dst ∉ [Dst.dr, .sr]) : (opBody op f s).sr = s.sr := by
  simp only [List.mem_cons, List.not_mem_nil, or_false, not_or] at hdst
  obtain ⟨hdr, hsr⟩ := hdst
  rw [opBody_sr_of_dst_ne op s hsr, if_neg (not_or.mpr ⟨hsrc, hdr⟩)]

/-- Only a write of SR marks an arriving word or takes up an edge of INT (R308, R346). -/
theorem opBody_interrupt_of_ne (hdst : f.dst ≠ .sr) :
    (opBody op f s).siMixed = s.siMixed ∧ (opBody op f s).intPending = s.intPending ∧
      (opBody op f s).intLatched = s.intLatched := by
  obtain ⟨hmixed, hpending, hlatched⟩ :=
    writeDst_interrupt_of_ne ((s.srcEffect f.src).aluStep op f.asl (s.pOf f)) (s.bus f) hdst
  rw [aluStep_siMixed, srcEffect_siMixed] at hmixed
  rw [aluStep_intPending, srcEffect_intPending] at hpending
  rw [aluStep_intLatched, srcEffect_intLatched] at hlatched
  exact ⟨hmixed, hpending, hlatched⟩

/-- RAM byte by byte: @MEM writes the two bytes of the word at the DP before the instruction. -/
theorem opBody_ram_read_of_ne (hwf : s.ram.wf .ram) {addr : Nat}
    (haddr : f.dst = .mem → addr ≠ ramByte s.dp ∧ addr ≠ ramByte s.dp + 1) :
    (opBody op f s).ram.read .ram addr = s.ram.read .ram addr := by
  by_cases hdst : f.dst = .mem
  · obtain ⟨hlow, hhigh⟩ := haddr hdst
    rw [opBody_ram_of_dst op s hdst, writeRam_ram, Memory.read_writeWord _ _ _ _ _ hwf.1, if_neg hhigh, if_neg hlow]
  · rw [opBody_ram, if_neg hdst]

theorem opBody_ram_of_ne (hdst : f.dst ≠ .mem) : (opBody op f s).ram = s.ram := by rw [opBody_ram, if_neg hdst]

end

/-- Settles O26: each clause is the frame lemma of its field. -/
theorem opFrame : Obligations.OpFrame := by
  intro op f s hready
  exact ⟨_, exec_opInstr_ready op f s hready, congrArg (· + 1) (opBody_pc op f s), opBody_stack op f s,
    opBody_outside op f s, opBody_a_of_ne s, opBody_b_of_ne s, opBody_flagA_of_ne s, opBody_flagB_of_ne s,
    opBody_tr_of_ne s, opBody_trb_of_ne s, opBody_dp_of_ne s, opBody_rp_of_ne s, opBody_k_of_notMem s,
    opBody_l_of_notMem s, rfl, rfl, opBody_dr_of_ne s, opBody_so_of_notMem s, opBody_siAck_of_notMem s,
    opBody_drq_of_ne s, opBody_sr_of_ne s, opBody_interrupt_of_ne s⟩

/-- Settles O27: the body writes RAM through @MEM alone, and no ROM. -/
theorem opFrameMemory : Obligations.OpFrameMemory := by
  intro op f s hready hwf
  exact ⟨_, exec_opInstr_ready op f s hready, opBody_irom op f s, opBody_drom op f s,
    fun _ haddr => opBody_ram_read_of_ne s hwf haddr, opBody_ram_of_ne s⟩

/-! ### SR, SIM and SIL as sources (R201 to R203) -/

theorem rev16_getLsbD (v : Word) {j : Nat} (hj : j < 16) : (rev16 v).getLsbD j = v.getLsbD (15 - j) := by
  rw [rev16, BitVec.getLsbD_reverse, BitVec.getMsbD, decide_eq_true hj, Bool.true_and]

/-- TR, A and B, where one of them is the destination, show the bits on the bus. -/
theorem opBody_shows_bus (op : AluOp) {f : OpFields} {s : State} {v : Nat → Bool}
    (hbus : ∀ j, j < 16 → (s.bus f).getLsbD j = v j) :
    (f.dst = .tr → ∀ j, j < 16 → (opBody op f s).tr.getLsbD j = v j) ∧
    (f.dst = .a → ∀ j, j < 16 → (opBody op f s).a.getLsbD j = v j) ∧
    (f.dst = .b → ∀ j, j < 16 → (opBody op f s).b.getLsbD j = v j) :=
  ⟨fun hdst => (opBody_tr_of_dst op s hdst).symm ▸ hbus, fun hdst => (opBody_a_of_dst op s hdst).symm ▸ hbus,
    fun hdst => (opBody_b_of_dst op s hdst).symm ▸ hbus⟩

/-- Settles O30: the bus carries SR without the places of no bit, SI, or SI reversed. -/
theorem sourceStatusAndSerial : Obligations.SourceStatusAndSerial := by
  intro op f s hready
  refine ⟨_, exec_opInstr_ready op f s hready, fun hsrc => ?sr, fun hsrc => ?sim, fun hsrc => ?sil⟩
  case sr =>
    have hne : f.src ≠ .dr := by rw [hsrc]; decide
    have hserial : f.src ∉ [Src.sim, .sil] := by rw [hsrc]; decide
    exact ⟨opBody_shows_bus op fun j _ => by rw [State.bus, hsrc]; exact srValue_getLsbD s j,
      opBody_sr_of_ne s hne, opBody_siAck_of_notMem s hserial⟩
  case sim =>
    refine ⟨opBody_shows_bus op fun j _ => by rw [State.bus, hsrc, State.readSrc], ?_, opBody_si op f s⟩
    rw [nextPc_siAck, opBody_siAck, if_pos (.inl hsrc)]
  case sil =>
    refine ⟨opBody_shows_bus op fun j hj => by rw [State.bus, hsrc]; exact rev16_getLsbD s.si hj, ?_,
      opBody_si op f s⟩
    rw [nextPc_siAck, opBody_siAck, if_pos (.inr hsrc)]

/-! ### SO as a destination (R218, R219) -/

/-- No source is forbidden beside @SOL and @SOM (R226). -/
theorem not_forbidden_of_serial (src : Src) {dst : Dst} (h : Dst.serial dst) : forbidden src dst = false := by
  rw [← Bool.not_eq_true, forbidden_iff]
  obtain rfl | rfl := h <;> simp

/-- Settles O34: with SO ACK = 0 the transfer goes through, with SO ACK = 1 it is the overrun. -/
theorem destinationSO : Obligations.DestinationSO := by
  intro op f s hserial
  have hforbidden := not_forbidden_of_serial f.src hserial
  refine ⟨fun hack => ⟨_, exec_opInstr_ready op f s ⟨hforbidden, fun _ => hack⟩, ?ack, fun hdst => ?som,
    fun hdst j hj => ?sol⟩, fun hack => ?overrun⟩
  case ack => rw [nextPc_soAck, opBody_soAck, if_pos hserial.symm]
  case som => rw [nextPc_so, opBody_so, if_pos hdst]
  case sol => rw [nextPc_so, opBody_so, hdst, if_neg (by decide), if_pos rfl, rev16_getLsbD _ hj]
  case overrun =>
    have hover : s.overruns f.dst = true := (overruns_iff s f.dst).mpr ⟨hserial, hack⟩
    rw [exec_opInstr, runOp, hforbidden, if_neg (by decide), if_pos hover]

/-! ### RP, and RT beside OP (R188, R230) -/

/-- A decrement within ten bits is the addition of 1023 (D9). -/
theorem rpNext_dec_toNat (rp : RomAddr) : (rpNext .dec rp).toNat = (rp.toNat + 1023) % 1024 := by
  rw [rpNext, BitVec.toNat_sub, Nat.add_comm]
  rfl

/-- Settles O37: OP and RT share one body, whose RP is the bus or the old one stepped. -/
theorem pointerRP : Obligations.PointerRP := by
  intro op f s hready
  refine ⟨_, exec_opInstr_ready op f s hready, ?rt, opBody_rp_of_dst op s, fun hdst hrpdcr => ?dec,
    opBody_rp_of_ne s⟩
  case rt =>
    intro ret rest hstack
    exact ⟨_, exec_rtInstr_ready op f s ret rest hready hstack, by rw [returnTo_rp, nextPc_rp]⟩
  case dec => rw [nextPc_rp, opBody_rp_of_dst_ne s hdst, hrpdcr, rpNext_dec_toNat]

/-- Settles O38: OP steps PC after the body, RT returns after the same body. -/
theorem returnDoesOpWork : Obligations.ReturnDoesOpWork := by
  intro op f s ret rest hready hstack
  exact ⟨_, exec_opInstr_ready op f s hready, exec_rtInstr_ready op f s ret rest hready hstack⟩

end Sys2Proof.Machine
end

section
/-! PROOFS. Words in the instruction ROM and the core step that runs one; jumps and calls with a legal stack; the field-value
rows (20_memory.md, 44_rt.md, 45_jp.md, 30_encoding.md section 4). -/

namespace Sys2Proof.Machine

/-! ### A word loaded at PC (R71, R80; logs 4, 14) -/

/-- A byte of the instruction ROM after a word is loaded. -/
theorem Memory.read_loadInstr (m : Memory) (i : CodeAddr) (w : InstrWord) (addr : Nat)
    (h : m.Pairwise (fun p q => p.1 < q.1)) :
    (m.loadInstr i w).read .irom addr =
      if addr = iromByte i + 2 then w.extractLsb' 16 8
      else if addr = iromByte i + 1 then w.extractLsb' 8 8
      else if addr = iromByte i then w.extractLsb' 0 8
      else m.read .irom addr := by
  have hlow := Memory.write_sorted .irom m (iromByte i) (w.extractLsb' 0 8) h
  have hmid := Memory.write_sorted .irom _ (iromByte i + 1) (w.extractLsb' 8 8) hlow
  rw [Memory.loadInstr, Memory.read_write _ _ _ _ _ hmid, Memory.read_write _ _ _ _ _ hlow,
    Memory.read_write _ _ _ _ _ h]

/-- The three bytes of an instruction word put together again. -/
theorem joinInstrBytes (w : InstrWord) : w.extractLsb' 16 8 ++ w.extractLsb' 8 8 ++ w.extractLsb' 0 8 = w := by
  rw [BitVec.extractLsb'_append_extractLsb'_eq_extractLsb' (by rfl),
    BitVec.extractLsb'_append_extractLsb'_eq_extractLsb' (by rfl)]
  exact BitVec.extractLsb'_eq_self

/-- The bytes of another word address stand. -/
theorem Memory.read_loadInstr_of_ne {m : Memory} (h : m.Pairwise (fun p q => p.1 < q.1)) {i j : CodeAddr} (hne : j ≠ i)
    (w : InstrWord) {k : Nat} (hk : k < 3) :
    (m.loadInstr i w).read .irom (iromByte j + k) = m.read .irom (iromByte j + k) := by
  have haddr : j.toNat ≠ i.toNat := fun h => hne (BitVec.eq_of_toNat_eq h)
  have hword : ∀ k' < 3, iromByte j + k ≠ iromByte i + k' := by
    unfold iromByte
    omega
  rw [Memory.read_loadInstr m i w _ h, if_neg (hword 2 (by decide)), if_neg (hword 1 (by decide)),
    if_neg (show ¬ iromByte j + k = iromByte i from hword 0 (by decide))]

/-- Settles O7: the three bytes of the word are those at its own address, which no other address shares. -/
theorem loadedWordIsFetched : Obligations.LoadedWordIsFetched := by
  intro s w hwf
  constructor
  · simp [State.fetch, State.iromAt, Memory.read_loadInstr s.irom s.pc w _ hwf.1, joinInstrBytes]
  · intro i hne
    have hkept := fun k => Memory.read_loadInstr_of_ne hwf.1 hne w (k := k)
    rw [State.iromAt, hkept 2 (by decide), hkept 1 (by decide), ← Nat.add_zero (iromByte i), hkept 0 (by decide)]
    rfl

/-! ### The core step (R71, R376) -/

/-- Settles O4: the sixteen words, decoded. -/
theorem wordsDecode : Obligations.WordsDecode := by
  unfold Obligations.WordsDecode
  decide

theorem step_of_coreNext {s : State} {rest : List Move} (h : s.coreNext rest) :
    step s = coreStep { s with schedule := rest } := by
  obtain ⟨hs, rfl⟩ | hs := h
  · obtain ⟨-, ho⟩ | ⟨mv, rest, hmv, -⟩ := step_cases (s := s) rfl
    · rw [ho, ← hs]
    · cases hs.symm.trans hmv
  · exact step_of_schedule hs

theorem coreStep_of_fetches {s : State} {i : Instr} (hpending : s.intPending = false) (h : s.fetches i) :
    coreStep s = exec i s := by
  obtain ⟨hp, -⟩ | ⟨-, j, hj, ho⟩ | ⟨-, e, he, -⟩ := coreStep_cases (s := s) rfl
  · cases hpending.symm.trans hp
  · cases h.symm.trans hj; exact ho
  · cases h.symm.trans he

theorem coreStep_of_refused {s : State} {e : DecodeError} (hpending : s.intPending = false)
    (h : decode s.fetch = .error e) : coreStep s = .fault (decodeFault e) := by
  obtain ⟨hp, -⟩ | ⟨-, j, hj, -⟩ | ⟨-, r, hr, ho⟩ := coreStep_cases (s := s) rfl
  · cases hpending.symm.trans hp
  · cases h.symm.trans hj
  · cases h.symm.trans hr; exact ho

/-- Settles O5: the move taken from the schedule changes neither PC nor the ROM. -/
theorem stepRunsDecoded : Obligations.StepRunsDecoded := fun _ _ _ hnext hpending hi =>
  (step_of_coreNext hnext).trans (coreStep_of_fetches hpending hi)

/-- Settles O6: the fault by the reason of the refusal. -/
theorem stepFaultsRefusedWord : Obligations.StepFaultsRefusedWord := by
  intro s e rest hnext hpending he
  refine (step_of_coreNext hnext).trans ((coreStep_of_refused (s := { s with schedule := rest }) hpending he).trans ?_)
  cases e <;> rfl

/-- Settles O10: the fields of the reset state. -/
theorem resetValues : Obligations.ResetValues := by
  unfold Obligations.ResetValues
  decide

/-! ### Jumps, calls and the interrupt on a legal stack (R24, R241, R242, R303) -/

/-- A push on a legal stack loses the oldest of four, and nothing of fewer. -/
theorem pushReturn_eq {stack : List CodeAddr} (h : stack.length ≤ 4) (v : CodeAddr) :
    pushReturn v stack = v :: (if stack.length = 4 then stack.take 3 else stack) := by
  show v :: stack.take 3 = _
  split
  case isTrue => rfl
  case isFalse hfree => rw [List.take_of_length_le (by omega)]

/-- Settles O39: the multiplier finds its own product, so PC and the stack are all that changes. -/
theorem jumpAndCall : Obligations.JumpAndCall := by
  intro s na hstack hprod
  refine ⟨jumpIf_of_productLegal hprod na true, (execCall_eq na s).trans ?_⟩
  obtain ⟨hm, hn⟩ := hprod
  rw [← hm, ← hn, pushReturn_eq hstack]

/-- Settles O40: RT pops what CALL pushed, over at most three of the addresses before. -/
theorem callThenReturn : Obligations.CallThenReturn := by
  intro s na hstack
  have hready : State.ready { s with
      pc := na
      stack := pushReturn (s.pc + 1) s.stack
      m := productM s.k s.l
      n := productN s.k s.l } OpFields.zero := ready_of_dst _ (by decide)
  refine ⟨_, _, execCall_eq na s, exec_rtInstr_ready .nop _ _ (s.pc + 1) (s.stack.take 3) hready rfl, rfl,
    fun hfree => ?_, fun _ => rfl⟩
  exact List.take_of_length_le (Nat.le_of_lt_succ hfree)

/-- Settles O48: the push of PC on a legal stack. -/
theorem interruptTaken : Obligations.InterruptTaken := by
  intro s rest hnext hpending hstack
  have htakes : coreStep { s with schedule := rest } = .next (State.takeInterrupt { s with schedule := rest }) :=
    if_pos hpending
  rw [step_of_coreNext hnext, htakes, ← pushReturn_eq hstack]
  rfl

/-! ### The field-value rows (R123, R125; log 18) -/

/-- `t` stepped to the next address, with the product of its K and L: what every row leaves of its own effect. -/
def State.rowDone (s t : State) : Host.Outcome State Fault Refusal :=
  .next { t with pc := s.pc + 1, m := productM t.k t.l, n := productN t.k t.l }

/-- A row runs the OP word of its form. -/
theorem exec_of_form_op {i : Instr} {op : AluOp} {f : OpFields} (s : State) (h : i.form = .op op f) :
    exec i s = runOp op f s := by
  obtain ⟨_, _, hform, he⟩ | ⟨_, _, hform, -⟩ | ⟨_, _, hform, -⟩ | ⟨_, _, _, hform, -⟩ | ⟨_, hform, -⟩ :=
    exec_shape i s <;> cases h.symm.trans hform
  exact he

/-- An OP NOP word does the transfer and steps the pointers. -/
theorem runOp_nop_eq {s : State} {f : OpFields} (hready : s.ready f) :
    runOp .nop f s = s.rowDone (((s.srcEffect f.src).writeDst f.dst (s.bus f)).stepPointers f) := by
  have hpc : ((s.srcEffect f.src).writeDst f.dst (s.bus f)).pc = s.pc := by simp
  rw [← exec_opInstr, exec_opInstr_ready .nop f s hready, State.rowDone, ← hpc]
  rfl

/-- Both pointers stand where neither DPL, DPH.M nor RPDCR is written. -/
theorem stepPointers_of_zero (s : State) {f : OpFields} (hdpl : f.dpl = .nop) (hdphm : f.dphm = 0)
    (hrpdcr : f.rpdcr = .nop) : s.stepPointers f = s := by
  rw [State.stepPointers, hdpl, hdphm, hrpdcr, dpNext_nop_zero, rpNext, ite_self, ite_self]

/-- A row of SRC: the side effect of the source, the bus going nowhere. -/
theorem runOp_src_row (s : State) (src : Src) :
    runOp .nop { OpFields.zero with src := src } s = s.rowDone (s.srcEffect src) := by
  rw [runOp_nop_eq (ready_of_dst s (show Dst.non ∉ _ by decide)), stepPointers_of_zero _ rfl rfl rfl]
  rfl

/-- A row of DST takes TRB, the bus of SRC = NON. -/
theorem runOp_dst_row {s : State} (dst : Dst) (hfree : Dst.serial dst → s.soAck = false) :
    runOp .nop { OpFields.zero with dst := dst } s = s.rowDone (s.writeDst dst s.trb) := by
  have hready : s.ready { OpFields.zero with dst := dst } := by
    refine ⟨?_, hfree⟩
    rw [← Bool.not_eq_true, forbidden_iff]
    simp [OpFields.zero]
  rw [runOp_nop_eq hready, stepPointers_of_zero _ rfl rfl rfl]
  rfl

/-- A row of DPL, DPH.M or RPDCR steps its pointer. -/
theorem runOp_pointer_row (s : State) (op : DplOp) (mask : BitVec 4) (rpOp : RpOp) :
    runOp .nop { OpFields.zero with dpl := op, dphm := mask, rpdcr := rpOp } s =
      s.rowDone { s with dp := dpNext op mask s.dp, rp := rpNext rpOp s.rp } := by
  rw [runOp_nop_eq (ready_of_dst s (show Dst.non ∉ _ by decide))]
  rfl

/-- With M and N the product already, a row without an effect of its own changes PC alone. -/
theorem rowDone_self {s : State} (hprod : s.ProductLegal) : s.rowDone s = .next { s with pc := s.pc + 1 } := by
  obtain ⟨hm, hn⟩ := hprod
  rw [State.rowDone, ← hm, ← hn]

/-- The fields of a word that asks for nothing but the next address: no destination, no pointer stepped, no source with
a side effect. -/
structure OpFields.Idle (f : OpFields) : Prop where
  dst   : f.dst = .non
  dpl   : f.dpl = .nop
  dphm  : f.dphm = 0
  rpdcr : f.rpdcr = .nop
  src   : f.src ∉ [Src.dr, .sim, .sil]

theorem srcEffect_of_notMem (s : State) {src : Src} (h : src ∉ [Src.dr, .sim, .sil]) : s.srcEffect src = s := by
  cases src with
  | dr | sim | sil => simp at h
  | _ => rfl

theorem runOp_nop_idle (s : State) {f : OpFields} (h : OpFields.Idle f) : runOp .nop f s = s.rowDone s := by
  obtain ⟨hdst, hdpl, hdphm, hrpdcr, hsrc⟩ := h
  rw [runOp_nop_eq (ready_of_dst s (by rw [hdst]; decide)), stepPointers_of_zero _ hdpl hdphm hrpdcr,
    srcEffect_of_notMem s hsrc, hdst]
  rfl

/-- Settles O45: each row is an OP NOP word whose fields are idle. -/
theorem fieldRowsThatOnlyStep : Obligations.FieldRowsThatOnlyStep := by
  intro s hprod i hi
  have hrow : ∃ f, i.form = .op .nop f ∧ OpFields.Idle f := by
    fin_cases hi <;> exact ⟨_, rfl, rfl, rfl, rfl, rfl, by decide⟩
  obtain ⟨f, hform, hidle⟩ := hrow
  rw [exec_of_form_op s hform, runOp_nop_idle s hidle, rowDone_self hprod]

/-! ### DP stepped, as the rows write it -/

theorem dph_append_dpl (dp : RamAddr) : dph dp ++ dpl dp = dp := by
  rw [dph, dpl, BitVec.extractLsb'_append_extractLsb'_eq_extractLsb' (by rfl)]
  exact BitVec.extractLsb'_eq_self

theorem dpNext_zero (op : DplOp) (dp : RamAddr) : dpNext op 0 dp = dph dp ++ dplNext op (dpl dp) :=
  congrArg (· ++ dplNext op (dpl dp)) BitVec.xor_zero

theorem dpNext_clr_zero (dp : RamAddr) : dpNext .clr 0 dp = dp &&& 0xF0 := by
  calc dpNext .clr 0 dp = dph dp ++ 0#4 := dpNext_zero .clr dp
    _ = (dph dp &&& BitVec.allOnes 4) ++ (dpl dp &&& 0#4) := by rw [BitVec.and_allOnes, BitVec.and_zero]
    _ = (dph dp ++ dpl dp) &&& (BitVec.allOnes 4 ++ 0#4) := BitVec.and_append.symm
    _ = dp &&& 0xF0 := by rw [dph_append_dpl]; rfl

theorem dpNext_nop_mask (mask : BitVec 4) (dp : RamAddr) : dpNext .nop mask dp = dp ^^^ (mask ++ 0#4) := by
  calc dpNext .nop mask dp = (dph dp ^^^ mask) ++ (dpl dp ^^^ 0#4) := by rw [BitVec.xor_zero]; rfl
    _ = (dph dp ++ dpl dp) ^^^ (mask ++ 0#4) := BitVec.xor_append.symm
    _ = dp ^^^ (mask ++ 0#4) := by rw [dph_append_dpl]

/-- Settles O46: by the kind of the row: DP, RP, a source, a destination. -/
theorem fieldRowsThatAct : Obligations.FieldRowsThatAct := by
  intro s _ next
  have dpRow (op : DplOp) (mask : BitVec 4) {dp : RamAddr} (hdp : dpNext op mask s.dp = dp) :
      runOp .nop { OpFields.zero with dpl := op, dphm := mask } s = next { s with dp := dp } :=
    hdp ▸ runOp_pointer_row s op mask .nop
  have rpRow : runOp .nop { OpFields.zero with rpdcr := .dec } s = next { s with rp := s.rp - 1 } := by
    refine (runOp_pointer_row s .nop 0 .dec).trans ?_
    rw [dpNext_nop_zero]
    rfl
  have dstRow (dst : Dst) (hdst : ¬ Dst.serial dst) := runOp_dst_row (s := s) dst fun h => absurd h hdst
  exact ⟨dpRow .inc 0 (dpNext_zero .inc s.dp), dpRow .dec 0 (dpNext_zero .dec s.dp), dpRow .clr 0 (dpNext_clr_zero s.dp),
    fun mask => dpRow .nop mask (dpNext_nop_mask mask s.dp), rpRow, runOp_src_row s .dr,
    runOp_src_row s .sim, runOp_src_row s .sil, dstRow .a (by decide), dstRow .b (by decide),
    dstRow .tr (by decide), dstRow .dp (by decide), dstRow .rp (by decide), dstRow .dr (by decide),
    dstRow .sr (by decide), fun hack => runOp_dst_row .sol fun _ => hack, fun hack => runOp_dst_row .som fun _ => hack,
    dstRow .k (by decide), dstRow .klr (by decide), dstRow .klm (by decide), dstRow .l (by decide),
    dstRow .trb (by decide), dstRow .mem (by decide)⟩

end Sys2Proof.Machine
end

section
/-! PROOFS. The agents outside the core, move by move: the INT pin, the host's bus cycles, a paused serial side, reset; and
which steps can set EI and RQM (60_exceptions.md sections 1, 4, 6 and 7, 70_reset_and_hazards.md section 1). -/

namespace Sys2Proof.Machine

/-! ### The INT pin (R301, R302, R308) -/

section
variable {s : State} {level : Bool}

theorem intPin_of_no_edge (h : ¬ (s.intPrev = false ∧ level = true)) :
    s.intPin level = { s with intPrev := level } := by
  rw [State.intPin, if_neg]
  simpa using h

theorem intPin_of_enabled (hprev : s.intPrev = false) (hei : s.srBit srEI = true) :
    s.intPin true = { s with intPrev := true, intPending := true, sr := clearBit srEI s.sr } := by
  rw [State.intPin, if_pos (by simp [hprev]), if_pos hei]

theorem edgeWhileDisabled_eq (s : State) :
    s.edgeWhileDisabled = { s with intLatched := s.intLatched || Config.intEdgeWhileDisabled == .latched } := by
  unfold State.edgeWhileDisabled
  split
  case h_1 hpolicy => rw [hpolicy, show (EdgePolicy.dropped == .latched) = false from rfl, Bool.or_false]
  case h_2 hpolicy => rw [hpolicy, beq_self_eq_true, Bool.or_true]

theorem intPin_of_disabled (hprev : s.intPrev = false) (hei : s.srBit srEI = false) :
    s.intPin true =
      { s with intPrev := true, intLatched := s.intLatched || Config.intEdgeWhileDisabled == .latched } := by
  rw [State.intPin, if_pos (by simp [hprev]), if_neg (by simp [hei]), edgeWhileDisabled_eq]

end

/-- Settles O47: no edge, an edge with EI = 1, an edge with EI = 0. -/
theorem interruptDetected : Obligations.InterruptDetected := by
  intro s level rest hs
  refine ⟨State.intPin level { s with schedule := rest }, step_of_schedule hs, rfl, fun hno => ?_,
    fun hprev hlevel hei => ?_, fun hprev hlevel hei => ?_⟩
  · exact intPin_of_no_edge (s := { s with schedule := rest }) hno
  · rw [hlevel, intPin_of_enabled (s := { s with schedule := rest }) hprev hei]
    exact ⟨rfl, fun j _ => clearBit_getLsbD_bne s.sr (by decide) j⟩
  · rw [hlevel]
    exact intPin_of_disabled (s := { s with schedule := rest }) hprev hei

/-! ### The host's accesses of DR, byte by byte (R323, R324) -/

section
variable {s : State}

theorem hostWriteDR_single (data : Byte) (hdrc : s.srBit srDRC = true) :
    s.hostWriteDR data =
      { s with dr := Config.freeByte s.freeIndex ++ data, freeIndex := s.freeIndex + 1, sr := s.srTouched } := by
  rw [State.hostWriteDR, State.srTouched, if_pos hdrc, if_pos hdrc]

theorem hostWriteDR_first (data : Byte) (hdrc : s.srBit srDRC = false) (hdrs : s.srBit srDRS = false) :
    s.hostWriteDR data = { s with dr := s.dr.extractLsb' 8 8 ++ data, sr := s.srTouched } := by
  simp [State.hostWriteDR, State.srTouched, hdrc, hdrs]

theorem hostWriteDR_second (data : Byte) (hdrc : s.srBit srDRC = false) (hdrs : s.srBit srDRS = true) :
    s.hostWriteDR data = { s with dr := data ++ s.dr.extractLsb' 0 8, sr := s.srTouched } := by
  simp [State.hostWriteDR, State.srTouched, hdrc, hdrs]

theorem hostReadDR_single (hdrc : s.srBit srDRC = true) :
    s.hostReadDR = { s with hostBus := some (s.dr.extractLsb' 0 8), sr := s.srTouched } := by
  rw [State.hostReadDR, State.srTouched, if_pos hdrc, if_pos hdrc]

theorem hostReadDR_first (hdrc : s.srBit srDRC = false) (hdrs : s.srBit srDRS = false) :
    s.hostReadDR = { s with hostBus := some (s.dr.extractLsb' 0 8), sr := s.srTouched } := by
  simp [State.hostReadDR, State.srTouched, hdrc, hdrs]

theorem hostReadDR_second (hdrc : s.srBit srDRC = false) (hdrs : s.srBit srDRS = true) :
    s.hostReadDR = { s with hostBus := some (s.dr.extractLsb' 8 8), sr := s.srTouched } := by
  simp [State.hostReadDR, State.srTouched, hdrc, hdrs]

end

/-- Settles O52: the three cases of R323, with SR as `srTouched` says. -/
theorem hostWritesDR : Obligations.HostWritesDR := by
  intro s data rest hs
  refine ⟨State.hostWriteDR data { s with schedule := rest }, step_of_schedule hs, fun hdrc => ?_,
    fun hdrc hdrs => ?_, fun hdrc hdrs => ?_⟩
  · rw [hostWriteDR_single (s := { s with schedule := rest }) data hdrc]
    exact ⟨rfl, BitVec.extractLsb'_append_eq_right, fun j _ => srTouched_getLsbD_single hdrc j⟩
  · rw [hostWriteDR_first (s := { s with schedule := rest }) data hdrc hdrs]
    exact ⟨rfl, fun j _ => srTouched_getLsbD_first hdrc hdrs j⟩
  · rw [hostWriteDR_second (s := { s with schedule := rest }) data hdrc hdrs]
    exact ⟨rfl, fun j _ => srTouched_getLsbD_second hdrc hdrs j⟩

/-- Settles O53: the three cases of R324, with SR as `srTouched` says. -/
theorem hostReadsDR : Obligations.HostReadsDR := by
  intro s data rest hs
  refine ⟨State.hostReadDR { s with schedule := rest }, step_of_schedule hs, ?_, fun hdrc => ?_,
    fun hdrc hdrs => ?_, fun hdrc hdrs => ?_⟩
  · rw [hostReadDR_eq]
  · rw [hostReadDR_single (s := { s with schedule := rest }) hdrc]
    exact ⟨rfl, fun j _ => srTouched_getLsbD_single hdrc j⟩
  · rw [hostReadDR_first (s := { s with schedule := rest }) hdrc hdrs]
    exact ⟨rfl, fun j _ => srTouched_getLsbD_first hdrc hdrs j⟩
  · rw [hostReadDR_second (s := { s with schedule := rest }) hdrc hdrs]
    exact ⟨rfl, fun j _ => srTouched_getLsbD_second hdrc hdrs j⟩

/-! ### A word written and read back (R76) -/

/-- The host is in 16-bit mode, `second` says whether the upper byte of a word is next, and `moves` are to come. -/
structure HostAt (s : State) (second : Bool) (moves : List Move) : Prop where
  drc      : s.srBit srDRC = false
  drs      : s.srBit srDRS = second
  schedule : s.schedule = moves

section
variable {s : State} {data : Byte} {rest : List Move}

theorem step_hostWrite_first (h : HostAt s false (.host hostWritePins data :: rest)) :
    ∃ t, step s = .next t ∧ HostAt t true rest ∧ t.dr = s.dr.extractLsb' 8 8 ++ data := by
  obtain ⟨t, hstep, -, hfirst, -⟩ := hostWritesDR s data rest h.schedule
  obtain ⟨ht, hbits⟩ := hfirst h.drc h.drs
  refine ⟨t, hstep, ⟨?_, ?_, by rw [ht]⟩, by rw [ht]⟩
  · rw [hbits srDRC (by decide), h.drc]; rfl
  · rw [hbits srDRS (by decide), h.drs]; rfl

theorem step_hostWrite_second (h : HostAt s true (.host hostWritePins data :: rest)) :
    ∃ t, step s = .next t ∧ HostAt t false rest ∧ t.dr = data ++ s.dr.extractLsb' 0 8 ∧ t.srBit srRQM = false := by
  obtain ⟨t, hstep, -, -, hsecond⟩ := hostWritesDR s data rest h.schedule
  obtain ⟨ht, hbits⟩ := hsecond h.drc h.drs
  refine ⟨t, hstep, ⟨?_, ?_, by rw [ht]⟩, by rw [ht], ?_⟩
  · rw [hbits srDRC (by decide), h.drc]; rfl
  · rw [hbits srDRS (by decide), h.drs]; rfl
  · rw [hbits srRQM (by decide), bne_self_eq_false, Bool.and_false]

theorem step_hostRead_first (h : HostAt s false (.host hostReadPins data :: rest)) :
    ∃ t, step s = .next t ∧ HostAt t true rest ∧ t.dr = s.dr ∧ t.hostBus = some (s.dr.extractLsb' 0 8) := by
  obtain ⟨t, hstep, ht, -, hfirst, -⟩ := hostReadsDR s data rest h.schedule
  obtain ⟨hbus, hbits⟩ := hfirst h.drc h.drs
  refine ⟨t, hstep, ⟨?_, ?_, by rw [ht]⟩, by rw [ht], hbus⟩
  · rw [hbits srDRC (by decide), h.drc]; rfl
  · rw [hbits srDRS (by decide), h.drs]; rfl

theorem step_hostRead_second (h : HostAt s true (.host hostReadPins data :: rest)) :
    ∃ t, step s = .next t ∧ HostAt t false rest ∧ t.dr = s.dr ∧ t.hostBus = some (s.dr.extractLsb' 8 8) := by
  obtain ⟨t, hstep, ht, -, -, hsecond⟩ := hostReadsDR s data rest h.schedule
  obtain ⟨hbus, hbits⟩ := hsecond h.drc h.drs
  refine ⟨t, hstep, ⟨?_, ?_, by rw [ht]⟩, by rw [ht], hbus⟩
  · rw [hbits srDRC (by decide), h.drc]; rfl
  · rw [hbits srDRS (by decide), h.drs]; rfl

end

/-- Settles O54: two writes join the word, two reads take it apart. -/
theorem hostWordRoundTrip : Obligations.HostWordRoundTrip := by
  intro s lo hi x y hdrc hdrs hs
  obtain ⟨s₁, hstep₁, hat₁, hdr₁⟩ := step_hostWrite_first ⟨hdrc, hdrs, hs⟩
  obtain ⟨t, hstep₂, hat₂, hdr₂, hrqm⟩ := step_hostWrite_second hat₁
  obtain ⟨u, hstep₃, hat₃, hdr₃, hbus₃⟩ := step_hostRead_first hat₂
  obtain ⟨v, hstep₄, hat₄, hdr₄, hbus₄⟩ := step_hostRead_second hat₃
  have hword : t.dr = hi ++ lo := by
    rw [hdr₂, hdr₁]
    exact congrArg (hi ++ ·) BitVec.extractLsb'_append_eq_right
  rw [hword] at hdr₃ hbus₃
  rw [hdr₃] at hdr₄ hbus₄
  refine ⟨t, u, v, (runFor_succ_of_step hstep₁ 1).trans (runFor_succ_of_step hstep₂ 0), hword, hat₂.drs, hrqm,
    runFor_succ_of_step hstep₃ 0, hbus₃.trans (congrArg some ?low), hat₃.drs, runFor_succ_of_step hstep₄ 0,
    hbus₄.trans (congrArg some ?high), hat₄.drs, hdr₄⟩
  case low => exact BitVec.extractLsb'_append_eq_right
  case high => exact BitVec.extractLsb'_append_eq_left

/-! ### The rows of Table 3-6 that are no access of DR (R321, R329) -/

theorem busFunction_unaffected : ∀ cs a0 dack wr rd : Bool,
    (cs = true ∧ dack = true) ∨ (dack = true ∧ wr = true ∧ rd = true) →
      busFunction ⟨cs, a0, dack, wr, rd⟩ = .unaffected := by decide

theorem busFunction_inhibited : ∀ cs a0 dack wr rd : Bool,
    (cs = false ∧ dack = true ∧ wr = false ∧ (a0 = true ∨ rd = false)) ∨ (dack = false ∧ wr = rd) →
      busFunction ⟨cs, a0, dack, wr, rd⟩ = .inhibited := by decide

/-- The upper byte of SR holds bits of SR alone (R42). -/
theorem srValue_upper_getLsbD (s : State) {j : Nat} (hj : j < 8) :
    (s.srValue.extractLsb' 8 8).getLsbD j = s.srBit (j + 8) := by
  have hplace : ∀ j < 8, 8 + j ∈ srPlaces := by decide
  rw [BitVec.getLsbD_extractLsb', decide_eq_true hj, Bool.true_and, srValue_getLsbD, decide_eq_true (hplace j hj),
    Bool.and_true, Nat.add_comm]

/-- Settles O51: the rows by the levels of the pins. -/
theorem hostCyclesOutsideDR : Obligations.HostCyclesOutsideDR := by
  intro s pins data rest hs
  obtain ⟨cs, a0, dack, wr, rd⟩ := pins
  have hstep : step s = State.hostCycle ⟨cs, a0, dack, wr, rd⟩ data { s with schedule := rest } := step_of_schedule hs
  refine ⟨fun hidle => ?_, fun hpins => ?_, fun hbad => ?_⟩
  · rw [hstep, State.hostCycle, busFunction_unaffected _ _ _ _ _ hidle]
  · exact ⟨_, hstep.trans (by rw [hpins]; rfl), fun j hj => srValue_upper_getLsbD s hj⟩
  · rw [hstep, State.hostCycle, busFunction_inhibited _ _ _ _ _ hbad]

/-! ### A paused serial side, and reset (R341, R353, R370) -/

theorem sckFall_paused {s : State} (hloaded : s.soLoaded = false) : s.sckFall true = { s with soPin := none } := by
  simp [State.sckFall, hloaded]

/-- Settles O58: with SIEN = 1 no bit is taken, with SOEN = 1 none is sent. -/
theorem serialPaused : Obligations.SerialPaused := fun s _ rest =>
  ⟨rfl, fun hloaded => congrArg Host.Outcome.next (sckFall_paused (s := { s with schedule := rest }) hloaded)⟩

/-- Settles O60: `pinReset` is the reset state in all these fields but the ROMs and the moves to come. -/
theorem resetAnyTime : Obligations.ResetAnyTime := by
  intro s rest hs
  refine ⟨_, step_of_schedule hs, ?_⟩
  exact ⟨rfl, rfl, rfl, rfl, rfl, rfl, rfl, rfl, rfl, rfl, rfl, rfl, rfl, rfl, rfl, rfl, rfl, rfl⟩

/-! ### Which steps set EI and RQM (R302, R43, R322) -/

theorem siComplete_sr (s : State) : s.siComplete.sr = s.sr := by
  unfold State.siComplete
  split <;> rfl

theorem sckRise_sr (sien bit : Bool) (s : State) : (s.sckRise sien bit).sr = s.sr := by
  cases sien with
  | true => rfl
  | false =>
    by_cases hmid : s.siCount + 1 < serialLen (s.srBit srSIC)
    · rw [sckRise_mid s bit hmid]
    · rw [sckRise_last s bit (Nat.not_lt.mp hmid), siComplete_sr]

theorem soLoad_sr (s : State) : s.soLoad.sr = s.sr := by
  unfold State.soLoad
  split <;> rfl

theorem soEnd_sr (s : State) : s.soEnd.sr = s.sr := by
  unfold State.soEnd
  split <;> rfl

theorem sckFall_sr (soen : Bool) (s : State) : (s.sckFall soen).sr = s.sr := by
  unfold State.sckFall
  split
  · rfl
  · split
    · dsimp only
      split
      · exact soEnd_sr _
      · rfl
    · rfl

/-- The INT pin sets no bit of SR. -/
theorem srBit_of_intPin {s : State} {level : Bool} {j : Nat} (h : (s.intPin level).srBit j = true) :
    s.srBit j = true := by
  by_cases hedge : s.intPrev = false ∧ level = true
  · obtain ⟨hprev, rfl⟩ := hedge
    cases hei : s.srBit srEI with
    | true =>
      rw [intPin_of_enabled hprev hei, State.srBit, clearBit_getLsbD_bne _ (by decide), Bool.and_eq_true] at h
      exact h.1
    | false => rwa [intPin_of_disabled hprev hei] at h
  · rwa [intPin_of_no_edge hedge] at h

/-- The host sets no bit of SR but DRS. -/
theorem srBit_of_hostCycle {s t : State} {pins : BusPins} {data : Byte} (ht : s.hostCycle pins data = .next t) {j : Nat}
    (hj : t.srBit j = true) : s.srBit j = true ∨ j = srDRS := by
  unfold State.hostCycle at ht
  split at ht <;> cases ht
  · exact .inl hj
  · rw [hostWriteDR_eq] at hj; exact srBit_of_srTouched hj
  · rw [State.dmaWriteDR, dmaAcknowledge_eq, hostWriteDR_eq] at hj; exact srBit_of_srTouched (s := s) hj
  · rw [hostReadDR_eq] at hj; exact srBit_of_srTouched hj
  · rw [State.dmaReadDR, dmaAcknowledge_eq, hostReadDR_eq] at hj; exact srBit_of_srTouched (s := s) hj
  · exact .inl hj

/-- Outside the core no agent sets a bit of SR but DRS. -/
theorem srBit_of_runMove {mv : Move} {s t : State} (hmv : mv ≠ .core) (ht : runMove mv s = .next t) {j : Nat}
    (hj : t.srBit j = true) : s.srBit j = true ∨ j = srDRS := by
  cases mv with
  | core => exact absurd rfl hmv
  | host pins data => exact srBit_of_hostCycle ht hj
  | sckRise sien bit => cases ht; rw [State.srBit, sckRise_sr] at hj; exact .inl hj
  | sckFall soen => cases ht; rw [State.srBit, sckFall_sr] at hj; exact .inl hj
  | soLoad => cases ht; rw [State.srBit, soLoad_sr] at hj; exact .inl hj
  | intPin level => cases ht; exact .inl (srBit_of_intPin hj)
  | reset =>
    cases ht
    have hzero : s.pinReset.srBit j = (0#16).getLsbD j := rfl
    rw [hzero, BitVec.getLsbD_zero] at hj
    cases hj

/-- A step is the core's, or the move of another agent. -/
theorem step_core_or_agent {s t : State} (h : step s = .next t) :
    (∃ rest, s.coreNext rest ∧ coreStep { s with schedule := rest } = .next t) ∨
      ∃ mv rest, mv ≠ .core ∧ s.schedule = mv :: rest ∧ runMove mv { s with schedule := rest } = .next t := by
  obtain ⟨hs, ho⟩ | ⟨mv, rest, hs, ho⟩ := step_cases h
  · exact .inl ⟨[], .inl ⟨hs, rfl⟩, by rw [ho, ← hs]⟩
  · by_cases hmv : mv = .core
    · subst hmv; exact .inl ⟨rest, .inr hs, ho.symm⟩
    · exact .inr ⟨mv, rest, hmv, hs, ho.symm⟩

/-- A bit of SR other than DRS rises only in the execution of an instruction. -/
theorem exec_of_srBit_rises {s t : State} (h : step s = .next t) {j : Nat} (hne : j ≠ srDRS) (hs : s.srBit j = false)
    (ht : t.srBit j = true) :
    ∃ (i : Instr) (rest : List Move), s.coreNext rest ∧ s.intPending = false ∧ s.fetches i ∧
      exec i { s with schedule := rest } = .next t := by
  obtain ⟨rest, hnext, hstep⟩ | ⟨mv, rest, hmv, -, hmove⟩ := step_core_or_agent h
  · obtain ⟨-, ho⟩ | ⟨hpending, i, hi, ho⟩ | ⟨-, e, -, ho⟩ := coreStep_cases hstep
    · cases ho; cases hs.symm.trans ht
    · exact ⟨i, rest, hnext, hpending, hi, ho.symm⟩
    · cases ho
  · obtain hkept | hdrs := srBit_of_runMove hmv hmove ht
    · cases hs.symm.trans hkept
    · exact absurd hdrs hne

/-- A transfer elsewhere leaves EI (R43, R302). -/
theorem writeDst_srBit_srEI (s : State) {dst : Dst} (v : Word) (hdst : dst ≠ .sr) :
    (s.writeDst dst v).srBit srEI = s.srBit srEI := by
  rw [State.srBit, writeDst_sr, if_neg hdst]
  split
  · rw [setBit_srRQM_getLsbD, show (srEI == srRQM) = false by decide, Bool.or_false]; rfl
  · rfl

theorem srcEffect_srBit_srEI (s : State) (src : Src) : (s.srcEffect src).srBit srEI = s.srBit srEI := by
  rw [State.srBit, srcEffect_sr]
  split
  · rw [setBit_srRQM_getLsbD, show (srEI == srRQM) = false by decide, Bool.or_false]; rfl
  · rfl

/-- A transfer elsewhere leaves RQM (R43, R322). -/
theorem writeDst_srBit_srRQM (s : State) {dst : Dst} (v : Word) (hdst : dst ≠ .dr) :
    (s.writeDst dst v).srBit srRQM = s.srBit srRQM := by
  by_cases hsr : dst = .sr
  · rw [hsr]; exact writeSR_srBit_srRQM s v
  · rw [State.srBit, writeDst_sr, if_neg hsr, if_neg hdst]; rfl

theorem srcEffect_srBit_srRQM (s : State) {src : Src} (hsrc : src ≠ .dr) :
    (s.srcEffect src).srBit srRQM = s.srBit srRQM := by
  rw [State.srBit, srcEffect_sr, if_neg hsrc]; rfl

/-- SR after the body is SR after its transfer, which the source went before. -/
theorem opBody_srBit (op : AluOp) (f : OpFields) (s : State) (j : Nat) :
    (opBody op f s).srBit j =
      (((s.srcEffect f.src).aluStep op f.asl (s.pOf f)).writeDst f.dst (s.bus f)).srBit j := rfl

theorem aluStep_srBit (s : State) (op : AluOp) (x : Acc) (p : Word) (j : Nat) :
    (s.aluStep op x p).srBit j = s.srBit j := by
  rw [State.srBit, aluStep_sr]; rfl

theorem opBody_srBit_srEI (op : AluOp) {f : OpFields} (s : State) (hdst : f.dst ≠ .sr) :
    (opBody op f s).srBit srEI = s.srBit srEI := by
  rw [opBody_srBit, writeDst_srBit_srEI _ _ hdst, aluStep_srBit, srcEffect_srBit_srEI]

theorem opBody_srBit_srRQM (op : AluOp) {f : OpFields} (s : State) (hsrc : f.src ≠ .dr) (hdst : f.dst ≠ .dr) :
    (opBody op f s).srBit srRQM = s.srBit srRQM := by
  rw [opBody_srBit, writeDst_srBit_srRQM _ _ hdst, aluStep_srBit, srcEffect_srBit_srRQM s hsrc]

/-- EI rises only through DST = @SR. -/
theorem dstOf_of_srEI_rises {i : Instr} {s t : State} (h : exec i s = .next t) (hs : s.srBit srEI = false)
    (ht : t.srBit srEI = true) : dstOf i.form = some .sr := by
  have hchanged : t.srBit srEI ≠ s.srBit srEI := by rw [hs, ht]; decide
  obtain ⟨op, f, hform, rfl⟩ | ⟨op, f, ret, rest, hform, -, rfl⟩ | ⟨id, dst, hform, rfl⟩ | ⟨_, _, c, -, rfl⟩ |
    ⟨_, -, rfl⟩ := exec_next_cases h
  · rw [hform]; exact congrArg some (not_not.mp fun hdst => hchanged (opBody_srBit_srEI op s hdst))
  · rw [hform]; exact congrArg some (not_not.mp fun hdst => hchanged (opBody_srBit_srEI op s hdst))
  · rw [hform]; exact congrArg some (not_not.mp fun hdst => hchanged (writeDst_srBit_srEI s id hdst))
  · cases c <;> exact absurd rfl hchanged
  · exact absurd rfl hchanged

/-- RQM rises only through SRC = DR or DST = @DR. -/
theorem dr_of_srRQM_rises {i : Instr} {s t : State} (h : exec i s = .next t) (hs : s.srBit srRQM = false)
    (ht : t.srBit srRQM = true) : srcOf i.form = some .dr ∨ dstOf i.form = some .dr := by
  have hchanged : t.srBit srRQM ≠ s.srBit srRQM := by rw [hs, ht]; decide
  have hfields {op : AluOp} {f : OpFields} (h : (opBody op f s).srBit srRQM ≠ s.srBit srRQM) :
      some f.src = some Src.dr ∨ some f.dst = some Dst.dr := by
    by_contra hno
    rw [Option.some_inj, Option.some_inj, not_or] at hno
    exact h (opBody_srBit_srRQM op s hno.1 hno.2)
  obtain ⟨op, f, hform, rfl⟩ | ⟨op, f, ret, rest, hform, -, rfl⟩ | ⟨id, dst, hform, rfl⟩ | ⟨_, _, c, -, rfl⟩ |
    ⟨_, -, rfl⟩ := exec_next_cases h
  · rw [hform]; exact hfields hchanged
  · rw [hform]; exact hfields hchanged
  · rw [hform]
    exact .inr (congrArg some (not_not.mp fun hdst => hchanged (writeDst_srBit_srRQM s id hdst)))
  · cases c <;> exact absurd rfl hchanged
  · exact absurd rfl hchanged

/-- Settles O49: only an instruction can raise the bit, and only through the operand named. -/
theorem enableAndRequestOnlyByTransfer : Obligations.EnableAndRequestOnlyByTransfer := by
  intro s t h
  constructor <;> intro hs ht
  · obtain ⟨i, rest, hnext, hpending, hi, hexec⟩ := exec_of_srBit_rises h (by decide) hs ht
    exact ⟨i, rest, hnext, hpending, hi, dstOf_of_srEI_rises hexec hs ht⟩
  · obtain ⟨i, rest, hnext, hpending, hi, hexec⟩ := exec_of_srBit_rises h (by decide) hs ht
    exact ⟨i, rest, hnext, hpending, hi, dr_of_srRQM_rises hexec hs ht⟩

end Sys2Proof.Machine
end
